-- ==== Sys2Proof/Word.lean ====
section
/-! DEFINITION. The bit widths the spec fixes: the 16-bit frame, mask and port word (rules R50 to
R53), the byte of the frame memory (R30), the 32-bit operand and the 40-bit operation word (R54). -/

namespace Sys2Proof

/-- One byte of the frame-buffer memory (20_memory.md R30). -/
abbrev Byte := BitVec 8

/-- A frame word, a clock mask or a port word: bit `i` belongs to output line `i` (R7, R51 to R53). -/
abbrev Word := BitVec 16

/-- The operand `ARG` of an operation word: an unsigned byte address, unscaled (R54, R56). -/
abbrev Addr := BitVec 32

/-- The 40-bit operation word, `OP` in bits 39:32 and `ARG` in bits 31:0 (R54). -/
abbrev OpWord := BitVec 40

end Sys2Proof
end

