-- ==== Sys2Proof/Syntax.lean ====
section
/-! DEFINITION. The operations of the CORE and of its host (30_encoding.md R57), one constructor per
row of the operation table, with the macros of R62, the agents of R9 and the turns by which the
outside world says which agent moves next. -/

namespace Sys2Proof

/-- The 22 operations of R57, in the order of the operation table. Two of them carry the operand `ARG`. -/
inductive Instr where
  | init
  | dchArm (src : Addr)
  | latchClr
  | dchStart
  | cchStart
  | xferGo
  | xferDisable
  | doneAck
  | portIdle
  | edgeA
  | edgeB
  | dchXfer
  | cchXfer
  | gateWaitIdle
  | gateSetActive
  | bufScrub (buf : Addr)
  | gateWaitLatch
  | gateBusy
  | tsRecord
  | gateClrActive
  | irqEnter
  | irqExit
  deriving DecidableEq, Repr, Inhabited

/-- The class column of R57: a host command, an autonomous event of the hardware, or an operation of
the host software on the host's own state. -/
inductive OpClass where
  | hc
  | ev
  | sw
  deriving DecidableEq, Repr

/-- The agents that perform operations (R9, agent column of R57). The sixth agent of R9, the passage
of time, performs none: it is the turn `Turn.time`. -/
inductive Agent where
  | foreground
  | interrupt
  | generator
  | dataChannel
  | clockChannel
  deriving DecidableEq, Repr, Inhabited

/-- The macros of R62. Each stands for its expansion and has no operation word of its own. -/
inductive Macro where
  | showBuf (buf : Addr)
  | busy
  | handler
  | start3
  deriving DecidableEq, Repr

/-- The two edges of one cycle of the EdgeClockGenerator (R14, R70). -/
inductive Edge where
  | A
  | B
  deriving DecidableEq, Repr, Inhabited

/-- What may happen next (R9: "Any enabled step of any agent may be the next step"). A turn names the
agent that moves, lets time pass, or is an act of the caller on the frame memory, which belongs to the
host (R30, R32, R35). -/
inductive Turn where
  /-- The agent performs its next operation, if it has one that is enabled. -/
  | agent (a : Agent)
  /-- `NOW` grows by `d` (R153). -/
  | time (d : Nat)
  /-- The caller declares memory of its own and fills it with words (R35, the `MEM` line of R60). -/
  | callerOwn (base : Nat) (words : List Word)
  /-- The caller gives up the bytes `base .. base + size - 1` (R174, 93_implementation_defined.md U1). -/
  | callerFree (base size : Nat)
  /-- The caller stores one 16-bit word (R32, R41). -/
  | callerStore (addr : Nat) (w : Word)
  /-- The caller stores one byte (R34, "a caller that fills bytes"). -/
  | callerStoreByte (addr : Nat) (b : Byte)
  deriving DecidableEq, Repr, Inhabited

end Sys2Proof
end

