-- ==== Sys2Proof/Config.lean ====
section
/-! DEFINITION. The configuration record of 00_scope.md R5 and R12, and the model's free values. -/

namespace Sys2Proof

/-- A non-negative fraction, for the rate and the phases that no rule reads (R5, R75). -/
structure Ratio where
  num : Nat
  den : Nat
  deriving DecidableEq, Repr

/-- How the two bytes of a frame word lie in memory (R34). -/
inductive ByteOrder where
  | little
  | big
  deriving DecidableEq, Repr

/-- The configuration `CFG` (R5, R12): set once at construction, written by no operation. The defaults
are the ones R5 gives; the fields without a default are open in the spec. -/
structure Config where
  /-- `BUFSIZE`, the length of one frame in bytes. -/
  bufsize : Nat
  /-- `CLKMASK`, the one-hot mask of the clock line (R52). -/
  clkmask : Word
  /-- `SKIPCLR`. -/
  skipclr : Bool
  /-- `T_LATCH`, in the unit of `NOW`. -/
  tLatch : Nat
  /-- `FREQ`, read by no rule (R75). -/
  freq : Ratio
  /-- `PHASE_A`, read by no rule (R75). -/
  phaseA : Ratio
  /-- `PHASE_B`, read by no rule (R75). -/
  phaseB : Ratio
  /-- `IDLE_LEVEL` (R103). -/
  idleLevel : Word := 0x0000
  /-- `AW`. -/
  aw : Nat := 32
  /-- `BYTE_ORDER`. -/
  byteOrder : ByteOrder := .little
  /-- `START_ALIGNED`. -/
  startAligned : Bool := true
  deriving DecidableEq, Repr

/-- `N = BUFSIZE / 2`, the number of words of a frame and of ticks of a transfer (R5, R55). -/
def Config.n (c : Config) : Nat := c.bufsize / 2

/-- The configuration of the source's one numbered example (95_test_vectors.md S1, P1): `BUFSIZE = 16`,
`CLKMASK = 0x0001`, `SKIPCLR = false`, `T_LATCH = 50`. DESIGN CHOICE (log entry 2): the spec leaves the
construction parameters open; only `State.reset` uses this record. -/
def Config.scenario : Config :=
  { bufsize := 16, clkmask := 0x0001, skipclr := false, tLatch := 50
    freq := ⟨1, 1⟩, phaseA := ⟨1, 5⟩, phaseB := ⟨1, 2⟩ }

/-- FREE VALUE: the numbers behind a `draw` (R8) and behind the choice of a race (R41). The step applies
it to the counter `State.draws` and advances the counter. -/
opaque Config.freeNat : Nat → Nat

/-- FREE VALUE: the turn taken when the outside world has named none (R9: any agent may be next). -/
opaque Config.freeTurn : Nat → Turn

end Sys2Proof
end

