-- ==== Sys2Proof/Decode.lean ====
section
/-! DEFINITION. The operation map of 30_encoding.md R57 (number, class, agent and mnemonic of each
operation), the total decoder of R58, the encoder of R54 written from the same map, and the macros of
R62. -/

namespace Sys2Proof

/-- The operation code `OP` of each operation (R57). -/
def Instr.opcode : Instr → BitVec 8
  | .init => 0x01
  | .dchArm _ => 0x02
  | .latchClr => 0x03
  | .dchStart => 0x04
  | .cchStart => 0x05
  | .xferGo => 0x06
  | .xferDisable => 0x07
  | .doneAck => 0x08
  | .portIdle => 0x09
  | .edgeA => 0x10
  | .edgeB => 0x11
  | .dchXfer => 0x12
  | .cchXfer => 0x13
  | .gateWaitIdle => 0x20
  | .gateSetActive => 0x21
  | .bufScrub _ => 0x22
  | .gateWaitLatch => 0x23
  | .gateBusy => 0x24
  | .tsRecord => 0x25
  | .gateClrActive => 0x26
  | .irqEnter => 0x27
  | .irqExit => 0x28

/-- The operand of the two operations that have one, a byte address (R57, ARG column). -/
def Instr.operand : Instr → Option Addr
  | .dchArm src => some src
  | .bufScrub buf => some buf
  | .init | .latchClr | .dchStart | .cchStart | .xferGo | .xferDisable | .doneAck | .portIdle
  | .edgeA | .edgeB | .dchXfer | .cchXfer | .gateWaitIdle | .gateSetActive | .gateWaitLatch
  | .gateBusy | .tsRecord | .gateClrActive | .irqEnter | .irqExit => none

/-- The field `ARG`: the operand, and 0 for an operation that has none (R54). -/
def Instr.arg (i : Instr) : Addr := i.operand.getD 0

/-- The class column of R57. -/
def Instr.opClass : Instr → OpClass
  | .init | .dchArm _ | .latchClr | .dchStart | .cchStart | .xferGo | .xferDisable | .doneAck
  | .portIdle => .hc
  | .edgeA | .edgeB | .dchXfer | .cchXfer => .ev
  | .gateWaitIdle | .gateSetActive | .bufScrub _ | .gateWaitLatch | .gateBusy | .tsRecord
  | .gateClrActive | .irqEnter | .irqExit => .sw

/-- The agent column of R57. -/
def Instr.agent : Instr → Agent
  | .init | .dchArm _ | .latchClr | .dchStart | .cchStart | .xferGo | .xferDisable
  | .gateWaitIdle | .gateSetActive | .bufScrub _ | .gateWaitLatch | .gateBusy => .foreground
  | .doneAck | .portIdle | .tsRecord | .gateClrActive | .irqEnter | .irqExit => .interrupt
  | .edgeA | .edgeB => .generator
  | .dchXfer => .dataChannel
  | .cchXfer => .clockChannel

/-- The mnemonic column of R57. -/
def Instr.mnemonic : Instr → String
  | .init => "INIT"
  | .dchArm _ => "DCH.ARM"
  | .latchClr => "LATCH.CLR"
  | .dchStart => "DCH.START"
  | .cchStart => "CCH.START"
  | .xferGo => "XFER.GO"
  | .xferDisable => "XFER.DISABLE"
  | .doneAck => "DONE.ACK"
  | .portIdle => "PORT.IDLE"
  | .edgeA => "EDGE.A"
  | .edgeB => "EDGE.B"
  | .dchXfer => "DCH.XFER"
  | .cchXfer => "CCH.XFER"
  | .gateWaitIdle => "GATE.WAITIDLE"
  | .gateSetActive => "GATE.SETACTIVE"
  | .bufScrub _ => "BUF.SCRUB"
  | .gateWaitLatch => "GATE.WAITLATCH"
  | .gateBusy => "GATE.BUSY"
  | .tsRecord => "TS.RECORD"
  | .gateClrActive => "GATE.CLRACTIVE"
  | .irqEnter => "IRQ.ENTER"
  | .irqExit => "IRQ.EXIT"

/-- An operation whose `ARG` must be 0 (format `-Z`): a non-zero `ARG` makes the word reserved (R58). -/
def decodeZ (i : Instr) (arg : Addr) : Option Instr :=
  if arg = 0 then some i else none

/-- The operation map read from the number to the operation (R57). Every number not in the map is
reserved and gives none (R58). -/
def decodeOp (op : Nat) (arg : Addr) : Option Instr :=
  match op with
  | 0x01 => decodeZ .init arg
  | 0x02 => some (.dchArm arg)
  | 0x03 => decodeZ .latchClr arg
  | 0x04 => decodeZ .dchStart arg
  | 0x05 => decodeZ .cchStart arg
  | 0x06 => decodeZ .xferGo arg
  | 0x07 => decodeZ .xferDisable arg
  | 0x08 => decodeZ .doneAck arg
  | 0x09 => decodeZ .portIdle arg
  | 0x10 => decodeZ .edgeA arg
  | 0x11 => decodeZ .edgeB arg
  | 0x12 => decodeZ .dchXfer arg
  | 0x13 => decodeZ .cchXfer arg
  | 0x20 => decodeZ .gateWaitIdle arg
  | 0x21 => decodeZ .gateSetActive arg
  | 0x22 => some (.bufScrub arg)
  | 0x23 => decodeZ .gateWaitLatch arg
  | 0x24 => decodeZ .gateBusy arg
  | 0x25 => decodeZ .tsRecord arg
  | 0x26 => decodeZ .gateClrActive arg
  | 0x27 => decodeZ .irqEnter arg
  | 0x28 => decodeZ .irqExit arg
  | _ => none

/-- The field `OP[7:0]`, bits 39:32 of the operation word (R54). -/
def opField (w : OpWord) : BitVec 8 := w.extractLsb' 32 8

/-- The field `ARG[31:0]`, bits 31:0 of the operation word (R54). -/
def argField (w : OpWord) : Addr := w.extractLsb' 0 32

/-- The decoder: total, none for a reserved word (R58). -/
def decode (w : OpWord) : Option Instr := decodeOp (opField w).toNat (argField w)

/-- The operation word of an operation (R54, R57). -/
def encode (i : Instr) : OpWord := i.opcode ++ i.arg

/-- The decoder on the numbering of `opcode_table.json`: one 40-bit word, bit 0 the least significant;
a number with a bit above bit 39 is no operation word. -/
def decodeTableWord (nbits w : Nat) : Option Instr :=
  if w % 2 ^ nbits < 2 ^ 40 then decode (BitVec.ofNat 40 (w % 2 ^ nbits)) else none

/-- A word the host may write in a program: not reserved and not of class EV (R58). -/
def hostWord (w : OpWord) : Bool :=
  match decode w with
  | some i => i.opClass != .ev
  | none => false

/-- The words of a sequence of operations. -/
def assemble (is : List Instr) : List OpWord := is.map encode

/-- The expansions of R62. -/
def Macro.expand : Macro → List Instr
  | .showBuf buf => [.gateWaitIdle, .gateSetActive, .bufScrub buf, .dchArm buf, .xferGo, .gateWaitLatch]
  | .busy => [.gateBusy]
  | .handler => [.irqEnter, .doneAck, .portIdle, .tsRecord, .gateClrActive, .irqExit]
  | .start3 => [.latchClr, .dchStart, .cchStart]

/-- The other admitted order of START3's two starts (42_clock_channel.md R97). -/
def start3Swapped : List Instr := [.latchClr, .cchStart, .dchStart]

end Sys2Proof
end

