-- ==== Sys2Proof/Machine/State.lean ====
section
/-! DEFINITION. The state of the CORE and of its host (10_state.md R13 to R21), with the frame memory of
20_memory.md R30 and the inputs of the outside world; the reasons a step stops; the power-on state. -/

namespace Sys2Proof.Machine

/-- The frame-buffer memory (R30): address and byte pairs in canonical form (`Memory.wf`). -/
abbrev Memory := List Host.Cell

/-- The kind of an entry of `TRACE` (R20): a DCH.XFER, a CCH.XFER, or a PORT.IDLE or INIT. -/
inductive PortKind where
  | D
  | C
  | I
  deriving DecidableEq, Repr

/-- One entry `(kind, k, value)` of `TRACE` (R20). -/
structure PortWrite where
  kind : PortKind
  k : Nat
  value : Word
  deriving DecidableEq, Repr

/-- A range of bytes the caller has declared as its own (R35). -/
structure Region where
  base : Nat
  size : Nat
  deriving DecidableEq, Repr

/-- The whole machine. Field names follow the spec's: `dchEn` is `DCH.EN`, `gateCts` is `GATE.CTS`. -/
structure State where
  /-- `CFG` (R12), a parameter of the machine: no step writes it. -/
  cfg : Config
  /-- `ECG.RUN` (R14). -/
  ecgRun : Bool
  /-- `ECG.NEXT` (R14). -/
  ecgNext : Edge
  /-- `LAT.A` (R13). -/
  latA : Bool
  /-- `LAT.B` (R13). -/
  latB : Bool
  /-- `DCH.EN` (R15). -/
  dchEn : Bool
  /-- `DCH.SRC` (R15). -/
  dchSrc : Addr
  /-- A DCH.ARM has bound `DCH.SRC` since INIT: before that the pointer is unspecified and the read of
  DCH.XFER is not admitted (R23, R82 (b), R95 (a)). -/
  dchArmed : Bool
  /-- `DCH.IDX` (R15). -/
  dchIdx : Nat
  /-- `CCH.EN` (R16). -/
  cchEn : Bool
  /-- `CCH.IDX` (R16). -/
  cchIdx : Nat
  /-- `PORT.OUT` (R17). -/
  portOut : Word
  /-- `SIG.DONE` (R18). -/
  sigDone : Bool
  /-- `TRACE` (R20), oldest entry first. -/
  trace : List PortWrite
  /-- `HOST.INITED` (R21). -/
  hostInited : Bool
  /-- `GATE.ACTIVE` (R21). -/
  gateActive : Bool
  /-- `GATE.CTS` (R21). -/
  gateCts : Nat
  /-- `HOST.INH` (R21). -/
  hostInh : Bool
  /-- `NOW` (R21, R153). -/
  now : Nat
  /-- The frame-buffer memory (R30). -/
  mem : Memory
  /-- The memory the caller has declared (R35): the DataChannel's read is admitted inside it only. -/
  owned : List Region
  /-- Words stored by the host while the DataChannel is enabled, each with the value it had before the
  store: the outcomes of the race of R41. -/
  raced : List (Nat × Word)
  /-- The foreground's program (R54): operation words of class HC and SW. -/
  fgProg : List OpWord
  /-- The foreground's position in its program (R146). -/
  fgPos : Nat
  /-- The Booleans GATE.BUSY has returned to the caller, oldest first (R126). -/
  busyResults : List Bool
  /-- The installed handler (R147, R173). -/
  ihProg : List OpWord
  /-- How many steps of the handler the interrupt context has done (R147, R148). -/
  ihPos : Nat
  /-- The turns the outside world has named, next one first (R9). -/
  turns : List Turn
  /-- The model's own counter of free values drawn. -/
  draws : Nat
  deriving DecidableEq, Repr

/-- Why the machine stops with a fault. There is no reason: "A step ends in a next state or in a refusal"
(R9), and the CORE raises no exception (R140). -/
inductive Fault where
  deriving DecidableEq, Repr

/-- Why an operation has no meaning in a state (`refuse(reason)`, R8). Every refusal is safe: it errs
toward unprovable. -/
inductive Refusal where
  /-- Raised by `exec` for an operation without a meaning. No arm of this model uses it. Safe. -/
  | notModelled (mnemonic : String)
  /-- Raised by the step: the configuration is invalid (R6, R59 (a)). Safe. -/
  | badConfig
  /-- Raised by the step: a program holds a reserved word or a word of class EV (R58). Safe. -/
  | reservedOperation
  /-- Raised by the step: the operation belongs to another agent (R151). Safe. -/
  | wrongAgent
  /-- Raised by every operation of class HC or SW but INIT before INIT (R171). Safe. -/
  | beforeInit
  /-- Raised by a second INIT (R120). Safe. -/
  | initTwice
  /-- Raised by DCH.ARM while a channel is enabled (R81). Safe. -/
  | armWhileEnabled
  /-- Raised by DCH.ARM with an odd address (R81). Safe. -/
  | misalignedBuffer
  /-- Raised by DCH.ARM with a buffer that runs past `2 ^ AW` (R81). Safe. -/
  | bufferPastTop
  /-- Raised by DCH.START, CCH.START and XFER.GO on an enabled channel (R82, R92, R95). Safe. -/
  | startWhileEnabled
  /-- Raised by LATCH.CLR, DCH.START and CCH.START when `START_ALIGNED` is true (R97). Safe. -/
  | useXferGo
  /-- Raised by XFER.GO while `SIG.DONE` is 1 (R95). Safe. -/
  | completionNotAcknowledged
  /-- Raised by XFER.DISABLE while a channel is enabled (R96). Safe. -/
  | noAbortPath
  /-- Raised by BUF.SCRUB on an odd address or past `2 ^ AW` (R124). Safe. -/
  | badBuffer
  /-- Raised by the caller's turns (`Turn.callerOwn`, `callerStore`, `callerStoreByte`) on bytes at or
  above `2 ^ AW`, which do not exist (R35; log entry 13). Safe: the run ends where nothing is described. -/
  | noSuchAddress
  deriving DecidableEq, Repr

/-- The machine at power-on with configuration `c` (R23, R170). R23 gives `HOST.INITED`, `HOST.INH` and
`TRACE`; `ECG.RUN` is "taken as not running" (R171); the handler "is always present" (R173). Every other
register is unspecified there: DESIGN CHOICE (log entry 1), all of them 0 here. -/
def State.powerOn (c : Config) : State :=
  { cfg := c
    ecgRun := false, ecgNext := .A, latA := false, latB := false
    dchEn := false, dchSrc := 0, dchArmed := false, dchIdx := 0
    cchEn := false, cchIdx := 0, portOut := 0, sigDone := false, trace := []
    hostInited := false, gateActive := false, gateCts := 0, hostInh := false, now := 0
    mem := [], owned := [], raced := []
    fgProg := [], fgPos := 0, busyResults := []
    ihProg := assemble (Macro.expand .handler), ihPos := 0
    turns := [], draws := 0 }

/-- The machine right after power-on, with the configuration of the source's own example (log entry 2). -/
def State.reset : State := State.powerOn Config.scenario

end Sys2Proof.Machine
end

