-- ==== Sys2Proof/Machine/Operands.lean ====
section
/-! DEFINITION. The checks on operands and on the configuration: R6, R35, R59. -/

namespace Sys2Proof.Machine

/-- `popcount(w)`, the number of set bits (R7). -/
def popcount (w : Word) : Nat := (List.range 16).countP (fun i => w.getLsbD i)

/-- A valid configuration (R6, R59 (a)): `BUFSIZE` even and above 0, `CLKMASK` with exactly one bit
set, `IDLE_LEVEL & CLKMASK = 0`. -/
def configValid (c : Config) : Bool :=
  c.bufsize % 2 == 0 && decide (0 < c.bufsize) && popcount c.clkmask == 1
    && (c.idleLevel &&& c.clkmask) == 0

/-- The constraints of R5 on the parameters no rule reads: `FREQ` positive and
`0 <= PHASE_A < PHASE_B < 1`. No step tests them (R75). -/
def timingParamsOk (c : Config) : Bool :=
  decide (0 < c.freq.num) && decide (0 < c.freq.den) && decide (0 < c.phaseA.den)
    && decide (0 < c.phaseB.den) && decide (c.phaseA.num * c.phaseB.den < c.phaseB.num * c.phaseA.den)
    && decide (c.phaseB.num < c.phaseB.den)

/-- The index of the clock line, the one `i` with `CLKMASK[i] = 1` (R52). -/
def clockLine (c : Config) : Nat := (List.range 16).findIdx (fun i => c.clkmask.getLsbD i)

/-- `src mod 2 != 0` (R35). -/
def oddAddress (a : Addr) : Bool := a.toNat % 2 != 0

/-- `src + BUFSIZE > 2^AW` (R35, R55). -/
def pastTop (c : Config) (a : Addr) : Bool := decide (2 ^ c.aw < a.toNat + c.bufsize)

end Sys2Proof.Machine
end

