-- ==== Sys2Proof/Machine/Ops.lean ====
section
/-! DEFINITION. The named operations over the frame memory, the port, the programs' positions, and the
entry to and return from the completion interrupt. -/

namespace Sys2Proof.Machine

/-- The answer of every meaning. -/
abbrev Answer := Host.Outcome State Fault Refusal

/-! ## Frame memory (20_memory.md) -/

/-- What an address that memory does not list reads as. DESIGN CHOICE (log entry 4): the spec gives
memory no contents before the caller fills it. -/
def unlistedByte : Byte := 0

/-- The byte at an address. -/
def Memory.readByte : Memory → Nat → Byte
  | [], _ => unlistedByte
  | (k, b) :: m, a => if a = k then b else Memory.readByte m a

/-- A byte stored at an address, keeping the canonical form: addresses rising, no entry equal to
`unlistedByte`. -/
def Memory.writeByte : Memory → Nat → Byte → Memory
  | [], a, b => if b = unlistedByte then [] else [(a, b)]
  | (k, c) :: m, a, b =>
    if a < k then
      if b = unlistedByte then (k, c) :: m else (a, b) :: (k, c) :: m
    else if a = k then
      if b = unlistedByte then m else (a, b) :: m
    else (k, c) :: Memory.writeByte m a b

/-- The canonical form of a memory. -/
abbrev Memory.wf (m : Memory) : Prop :=
  m.Pairwise (fun x y => x.1 < y.1) ∧ ∀ c ∈ m, c.2 ≠ unlistedByte

/-- The 16-bit value of two bytes, the one at the lower address first (R34). -/
def joinBytes (o : ByteOrder) (b0 b1 : Byte) : Word :=
  match o with
  | .little => b1 ++ b0
  | .big => b0 ++ b1

/-- The byte of a word that lies at the lower address (R34). -/
def firstByte (o : ByteOrder) (w : Word) : Byte :=
  match o with
  | .little => w.extractLsb' 0 8
  | .big => w.extractLsb' 8 8

/-- The byte of a word that lies at the higher address (R34). -/
def secondByte (o : ByteOrder) (w : Word) : Byte :=
  match o with
  | .little => w.extractLsb' 8 8
  | .big => w.extractLsb' 0 8

/-- `MemRead(addr, 2)` (R8, R31). -/
def Memory.readWord (o : ByteOrder) (m : Memory) (a : Nat) : Word :=
  joinBytes o (m.readByte a) (m.readByte (a + 1))

/-- `MemWrite(addr, 2, w)` (R8). -/
def Memory.writeWord (o : ByteOrder) (m : Memory) (a : Nat) (w : Word) : Memory :=
  (m.writeByte a (firstByte o w)).writeByte (a + 1) (secondByte o w)

/-- The word of the frame memory at a byte address, in the configured byte order. -/
def State.readWord (s : State) (a : Nat) : Word := s.mem.readWord s.cfg.byteOrder a

/-- `2 ^ AW`, the first address that does not exist (R35). -/
def State.memTop (s : State) : Nat := 2 ^ s.cfg.aw

/-- The aligned words a 16-bit access at `a` touches. -/
def wordsTouched (a : Nat) : List Nat := if a % 2 = 0 then [a] else [a - 1, a + 1]

/-- The races after a store of the host to the aligned words `as`: while the DataChannel is enabled the
value a word had before the store stays a possible outcome of its read (R41). -/
def State.racedAfter (s : State) (as : List Nat) : List (Nat × Word) :=
  if s.dchEn then as.map (fun a => (a, s.readWord a)) ++ s.raced else s.raced

/-- A 16-bit store of the host (R32). -/
def State.storeWord (s : State) (a : Nat) (w : Word) : State :=
  { s with mem := s.mem.writeWord s.cfg.byteOrder a w, raced := s.racedAfter (wordsTouched a) }

/-- A byte store of the caller (R34). -/
def State.storeByte (s : State) (a : Nat) (b : Byte) : State :=
  { s with mem := s.mem.writeByte a b, raced := s.racedAfter [a - a % 2] }

/-- Words stored at consecutive word addresses from `a`, in order. -/
def State.storeWords (s : State) (a : Nat) : List Word → State
  | [] => s
  | w :: ws => (s.storeWord a w).storeWords (a + 2) ws

/-- The scrub of `count` words from address `a` upwards: each word `w` becomes `w & ~CLKMASK` (R124). -/
def State.scrubWords (s : State) (a : Nat) : Nat → State
  | 0 => s
  | count + 1 => (s.storeWord a (s.readWord a &&& ~~~s.cfg.clkmask)).scrubWords (a + 2) count

/-- The address lies in memory the caller has declared (R35). -/
def State.owns (s : State) (a : Nat) : Bool :=
  s.owned.any (fun r => decide (r.base ≤ a) && decide (a < r.base + r.size))

/-- The caller declares the bytes from `base` as its own and fills them with `words` (R35, R60). -/
def State.declare (s : State) (base : Nat) (words : List Word) : State :=
  let s := s.storeWords base words
  { s with owned := ⟨base, 2 * words.length⟩ :: s.owned }

/-- What remains of a region when the bytes `base .. base + size - 1` are given up. -/
def Region.without (r : Region) (base size : Nat) : List Region :=
  [{ base := r.base, size := min r.size (base - r.base) },
   { base := max r.base (base + size), size := r.base + r.size - max r.base (base + size) }].filter
    (fun q => 0 < q.size)

/-! ## The DataChannel's read (41_data_channel.md R83) -/

/-- The byte address of the word the cursor points at: `DCH.SRC + 2 * DCH.IDX`, without wrap (R15, R55). -/
def State.dchAddr (s : State) : Nat := s.dchSrc.toNat + 2 * s.dchIdx

/-- The read of DCH.XFER is admitted: `DCH.SRC` has been armed since INIT (R82 (b)) and both bytes lie in
declared memory (R35, R83 (d)). DESIGN CHOICE (log entry 9): what counts is the memory declared at the
moment of the service, so a stuck channel goes on once the caller declares the bytes it waits for. -/
def State.dchReadAdmitted (s : State) : Bool :=
  s.dchArmed && s.owns s.dchAddr && s.owns (s.dchAddr + 1)

/-- The old values a racing store has left for the word at `a`, newest first (R41). -/
def State.racedValues (s : State) (a : Nat) : List Word :=
  (s.raced.filter (fun p => p.1 = a)).map (·.2)

/-- The word DCH.XFER reads at `a`: the word in memory, or, after a racing store, that word or one it
replaced, whole, the choice free (R41, R37). -/
def State.frameWord (s : State) (a : Nat) : Word :=
  match s.racedValues a with
  | [] => s.readWord a
  | olds =>
    (s.readWord a :: olds).getD (Config.freeNat s.draws % (olds.length + 1)) (s.readWord a)

/-! ## The port (43_port_mux.md) -/

/-- The whole-word side: every line takes the level of its bit of `w` (R101). -/
def wholeSide (_old w : Word) : Word := w

/-- The set side: the lines whose bit of `m` is 1 go high, the others keep their level (R102). -/
def setSide (old m : Word) : Word := old ||| m

/-- A write of the port with its entry in `TRACE` (R20). -/
def State.writePort (s : State) (kind : PortKind) (k : Nat) (v : Word) : State :=
  { s with portOut := v, trace := s.trace ++ [⟨kind, k, v⟩] }

/-! ## Programs and the completion interrupt -/

/-- The foreground goes on to the next operation of its program (R146). -/
def State.fgNext (s : State) : State := { s with fgPos := s.fgPos + 1 }

/-- The interrupt context goes on to the next step of the handler (R147). -/
def State.ihNext (s : State) : State := { s with ihPos := s.ihPos + 1 }

/-- The entry of the completion interrupt is enabled: `HOST.INITED = 1`, `SIG.DONE = 1` and
`HOST.INH = 0` (R146). -/
def State.interruptEnabled (s : State) : Bool := s.hostInited && s.sigDone && !s.hostInh

/-- Taking the completion interrupt (R146): `HOST.INH` is set and nothing else of the CORE changes;
control goes to the handler's next step; the foreground keeps its position. -/
def State.takeInterrupt (s : State) : State := { s with hostInh := true, ihPos := s.ihPos + 1 }

/-- The handler has done every step before its last, the return (R148). -/
def State.handlerDone (s : State) : Bool := s.ihPos + 1 == s.ihProg.length

/-- Returning from the completion interrupt (R148): `HOST.INH` is cleared, the handler stands at its
first step again, and the foreground goes on where it was. -/
def State.returnFromInterrupt (s : State) : State := { s with hostInh := false, ihPos := 0 }

/-- An operation of the host is refused before INIT (R171). -/
def afterInit (s : State) (answer : Answer) : Answer :=
  if s.hostInited then answer else .refused .beforeInit

end Sys2Proof.Machine
end

