-- ==== Sys2Proof/Machine/Flags.lean ====
section
/-! DEFINITION. The conditions on flags that guards test, and the values of flags and cursors that
steps write. -/

namespace Sys2Proof.Machine

/-- A cursor advances by one and wraps at `N` (R11, R55). -/
def nextIdx (n k : Nat) : Nat := (k + 1) % n

/-- The service is the last of the pass, `k = N - 1` (R83, R93). -/
def lastOfPass (n k : Nat) : Bool := k + 1 == n

/-- One of the channels is enabled. -/
def State.channelEnabled (s : State) : Bool := s.dchEn || s.cchEn

/-- An enabled channel has its latch set: the generator is held (R73). -/
def State.servicePending (s : State) : Bool := (s.dchEn && s.latA) || (s.cchEn && s.latB)

/-- The guard of EDGE.A and EDGE.B (R71, R72); no step of the hardware before INIT (R171). -/
def State.edgeEnabled (s : State) (e : Edge) : Bool :=
  s.hostInited && s.ecgRun && s.ecgNext == e && !s.servicePending

/-- The guard of DCH.XFER (R83); no step of the hardware before INIT (R171). -/
def State.dchTriggered (s : State) : Bool := s.hostInited && s.dchEn && s.latA

/-- The guard of CCH.XFER (R93); no step of the hardware before INIT (R171). -/
def State.cchTriggered (s : State) : Bool := s.hostInited && s.cchEn && s.latB

/-- The guard of XFER.GO: `START_ALIGNED = false or ECG.NEXT = A` (R95). -/
def State.startInPhase (s : State) : Bool := !s.cfg.startAligned || s.ecgNext == .A

/-- `NOW - GATE.CTS >= T_LATCH` (R125, R131). -/
def State.latchElapsed (s : State) : Bool := decide (s.cfg.tLatch ≤ s.now - s.gateCts)

/-- The result of GATE.BUSY: `GATE.ACTIVE = 1` or `NOW - GATE.CTS < T_LATCH` (R126). -/
def State.busyResult (s : State) : Bool := s.gateActive || decide (s.now - s.gateCts < s.cfg.tLatch)

/-- `draw(t : t <= NOW)` (R120): a free value not above `NOW`. -/
def State.drawTimestamp (s : State) : Nat := Config.freeNat s.draws % (s.now + 1)

end Sys2Proof.Machine
end

