-- ==== Sys2Proof/Machine/ClockChannel.lean ====
section
/-! DEFINITION. The ClockChannel and the operations on both channels: CCH.START, CCH.XFER, LATCH.CLR,
XFER.GO and XFER.DISABLE (42_clock_channel.md). -/

namespace Sys2Proof.Machine

/-- CCH.START (R92). -/
def execCchStart (s : State) : Answer :=
  afterInit s <|
    if s.cchEn then .refused .startWhileEnabled
    else if s.cfg.startAligned then .refused .useXferGo
    else .next { s with cchEn := true }.fgNext

/-- The service of the ClockChannel once its guard holds (R93). The last service of the pass disables the
channel and raises `SIG.DONE` (R111). -/
def State.serveClock (s : State) : State :=
  let k := s.cchIdx
  let last := lastOfPass s.cfg.n k
  { s.writePort .C k (setSide s.portOut s.cfg.clkmask) with
    latB := false
    cchIdx := nextIdx s.cfg.n k
    cchEn := !last
    sigDone := s.sigDone || last }

/-- CCH.XFER (R93). -/
def execCchXfer (s : State) : Answer :=
  if s.cchTriggered then .next s.serveClock else .next s

/-- LATCH.CLR (R94). -/
def execLatchClr (s : State) : Answer :=
  afterInit s <|
    if s.cfg.startAligned then .refused .useXferGo
    else .next { s with latA := false, latB := false }.fgNext

/-- XFER.GO, the joint start (R95): a refusal where R95 refuses, else a hold until the phase admits it. -/
def execXferGo (s : State) : Answer :=
  afterInit s <|
    if s.channelEnabled then .refused .startWhileEnabled
    else if s.sigDone then .refused .completionNotAcknowledged
    else if s.startInPhase then
      .next { s with latA := false, latB := false, dchEn := true, cchEn := true }.fgNext
    else .next s

/-- XFER.DISABLE (R96): admitted only where both channels are already disabled. -/
def execXferDisable (s : State) : Answer :=
  afterInit s <|
    if s.channelEnabled then .refused .noAbortPath
    else .next { s with dchEn := false, cchEn := false }.fgNext

end Sys2Proof.Machine
end

