-- ==== Sys2Proof/Machine/Completion.lean ====
section
/-! DEFINITION. The completion signaler and its interrupt: DONE.ACK (44_completion_signaler.md R112),
IRQ.ENTER and IRQ.EXIT (60_exceptions.md R146, R148). -/

namespace Sys2Proof.Machine

/-- DONE.ACK (R112). -/
def execDoneAck (s : State) : Answer :=
  afterInit s <| .next { s with sigDone := false }.ihNext

/-- IRQ.ENTER (R146), refused before INIT (R59 (d), R171). -/
def execIrqEnter (s : State) : Answer :=
  afterInit s <| if s.interruptEnabled then .next s.takeInterrupt else .next s

/-- IRQ.EXIT (R148), refused before INIT (R171). -/
def execIrqExit (s : State) : Answer :=
  afterInit s <|
    if s.hostInh && s.handlerDone then .next s.returnFromInterrupt else .next s

end Sys2Proof.Machine
end

