-- ==== Sys2Proof/Machine/DataChannel.lean ====
section
/-! DEFINITION. The DataChannel: DCH.ARM, DCH.START and DCH.XFER (41_data_channel.md). -/

namespace Sys2Proof.Machine

/-- DCH.ARM (R81). -/
def execDchArm (src : Addr) (s : State) : Answer :=
  afterInit s <|
    if s.channelEnabled then .refused .armWhileEnabled
    else if oddAddress src then .refused .misalignedBuffer
    else if pastTop s.cfg src then .refused .bufferPastTop
    else .next { s with dchSrc := src, dchArmed := true, dchIdx := 0 }.fgNext

/-- DCH.START (R82). -/
def execDchStart (s : State) : Answer :=
  afterInit s <|
    if s.dchEn then .refused .startWhileEnabled
    else if s.cfg.startAligned then .refused .useXferGo
    else .next { s with dchEn := true }.fgNext

/-- The service of the DataChannel once its guard holds and its read is admitted (R83). The races of the
pass end with the pass (R41); a draw is counted when a race had a choice to make. -/
def State.serveData (s : State) : State :=
  let k := s.dchIdx
  let w := s.frameWord s.dchAddr
  let last := lastOfPass s.cfg.n k
  { s.writePort .D k (wholeSide s.portOut w) with
    latA := false
    dchIdx := nextIdx s.cfg.n k
    dchEn := !last
    raced := if last then [] else s.raced
    draws := if (s.racedValues s.dchAddr).isEmpty then s.draws else s.draws + 1 }

/-- DCH.XFER (R83). A read that is not admitted leaves the channel without a step (R83 (d)). -/
def execDchXfer (s : State) : Answer :=
  if s.dchTriggered && s.dchReadAdmitted then .next s.serveData else .next s

end Sys2Proof.Machine
end

