-- ==== Sys2Proof/Machine/Gate.lean ====
section
/-! DEFINITION. The host's control surface: INIT, the operations of `show` and `busy`, and the handler's
operations on the host's state (45_transfer_gate.md). A wait whose condition is false leaves the state
as it is: the foreground spins on it (R121, R125, R156). -/

namespace Sys2Proof.Machine

/-- The state INIT leaves (R23, R120). `DCH.SRC` stays as it is and counts as not armed; `GATE.CTS` is a
free value not above `NOW`. -/
def State.initialised (s : State) : State :=
  { s with
    ecgRun := true, ecgNext := .A
    latA := false, latB := false
    dchEn := false, dchIdx := 0, dchArmed := false
    cchEn := false, cchIdx := 0
    sigDone := false
    portOut := s.cfg.idleLevel
    trace := [⟨.I, 0, s.cfg.idleLevel⟩]
    gateActive := false
    gateCts := s.drawTimestamp
    hostInh := false
    hostInited := true
    raced := []
    draws := s.draws + 1 }

/-- INIT (R120). -/
def execInit (s : State) : Answer :=
  if s.hostInited then .refused .initTwice else .next s.initialised.fgNext

/-- GATE.WAITIDLE (R121). -/
def execGateWaitIdle (s : State) : Answer :=
  afterInit s <| if s.gateActive then .next s else .next s.fgNext

/-- GATE.SETACTIVE (R122). -/
def execGateSetActive (s : State) : Answer :=
  afterInit s <| .next { s with gateActive := true }.fgNext

/-- BUF.SCRUB (R124). -/
def execBufScrub (buf : Addr) (s : State) : Answer :=
  afterInit s <|
    if oddAddress buf || pastTop s.cfg buf then .refused .badBuffer
    else if s.cfg.skipclr then .next s.fgNext
    else .next (s.scrubWords buf.toNat s.cfg.n).fgNext

/-- GATE.WAITLATCH (R125). -/
def execGateWaitLatch (s : State) : Answer :=
  afterInit s <| if !s.gateActive && s.latchElapsed then .next s.fgNext else .next s

/-- GATE.BUSY (R126): it writes nothing of the machine; its result goes to the caller. -/
def execGateBusy (s : State) : Answer :=
  afterInit s <| .next { s with busyResults := s.busyResults ++ [s.busyResult] }.fgNext

/-- TS.RECORD (R130). -/
def execTsRecord (s : State) : Answer :=
  afterInit s <| .next { s with gateCts := s.now }.ihNext

/-- GATE.CLRACTIVE (R132). -/
def execGateClrActive (s : State) : Answer :=
  afterInit s <| .next { s with gateActive := false }.ihNext

end Sys2Proof.Machine
end

