-- ==== Sys2Proof/Machine/Generator.lean ====
section
/-! DEFINITION. The EdgeClockGenerator: EDGE.A and EDGE.B (40_edge_clock_generator.md). Where a guard is
false the agent has no step and the state stays as it is (R8). -/

namespace Sys2Proof.Machine

/-- One edge of the generator: its latch is set and the other edge is next (R71, R72). -/
def State.edge (s : State) (e : Edge) : State :=
  match e with
  | .A => { s with latA := true, ecgNext := .B }
  | .B => { s with latB := true, ecgNext := .A }

/-- EDGE.A (R71). -/
def execEdgeA (s : State) : Answer :=
  if s.edgeEnabled .A then .next (s.edge .A) else .next s

/-- EDGE.B (R72). -/
def execEdgeB (s : State) : Answer :=
  if s.edgeEnabled .B then .next (s.edge .B) else .next s

end Sys2Proof.Machine
end

