-- ==== Sys2Proof/Machine/Port.lean ====
section
/-! DEFINITION. The port's one host operation, PORT.IDLE (43_port_mux.md R103). -/

namespace Sys2Proof.Machine

/-- PORT.IDLE (R103): no guard on the enables. -/
def execPortIdle (s : State) : Answer :=
  afterInit s <| .next (s.writePort .I 0 (wholeSide s.portOut s.cfg.idleLevel)).ihNext

end Sys2Proof.Machine
end

