-- ==== Sys2Proof/Machine/Dispatch.lean ====
section
/-! DEFINITION. The meaning of every operation of the table, one arm each. -/

namespace Sys2Proof.Machine

def exec (i : Instr) (s : State) : Host.Outcome State Fault Refusal :=
  match i with
  | .init => Sys2Proof.Machine.execInit s
  | .dchArm src => Sys2Proof.Machine.execDchArm src s
  | .latchClr => Sys2Proof.Machine.execLatchClr s
  | .dchStart => Sys2Proof.Machine.execDchStart s
  | .cchStart => Sys2Proof.Machine.execCchStart s
  | .xferGo => Sys2Proof.Machine.execXferGo s
  | .xferDisable => Sys2Proof.Machine.execXferDisable s
  | .doneAck => Sys2Proof.Machine.execDoneAck s
  | .portIdle => Sys2Proof.Machine.execPortIdle s
  | .edgeA => Sys2Proof.Machine.execEdgeA s
  | .edgeB => Sys2Proof.Machine.execEdgeB s
  | .dchXfer => Sys2Proof.Machine.execDchXfer s
  | .cchXfer => Sys2Proof.Machine.execCchXfer s
  | .gateWaitIdle => Sys2Proof.Machine.execGateWaitIdle s
  | .gateSetActive => Sys2Proof.Machine.execGateSetActive s
  | .bufScrub buf => Sys2Proof.Machine.execBufScrub buf s
  | .gateWaitLatch => Sys2Proof.Machine.execGateWaitLatch s
  | .gateBusy => Sys2Proof.Machine.execGateBusy s
  | .tsRecord => Sys2Proof.Machine.execTsRecord s
  | .gateClrActive => Sys2Proof.Machine.execGateClrActive s
  | .irqEnter => Sys2Proof.Machine.execIrqEnter s
  | .irqExit => Sys2Proof.Machine.execIrqExit s

end Sys2Proof.Machine
end

