-- ==== Sys2Proof/WellFormed.lean ====
section
/-! DEFINITION. What a well-formed operation, program, handler and configuration is: R6, R35, R58, R59,
R62. The step refuses what these checks refuse; the checks themselves are the operand checks of
Machine/Operands.lean and the program check of Decode.lean. -/

namespace Sys2Proof

/-- A valid configuration (R6). -/
def Config.wf (c : Config) : Bool := Machine.configValid c

/-- A buffer address the configuration admits: even, and the whole buffer below `2 ^ AW` (R35, R59 (b)). -/
def Addr.wf (c : Config) (a : Addr) : Bool := !Machine.oddAddress a && !Machine.pastTop c a

/-- A well-formed operation: its operand, where it has one, is an admitted buffer address (R59 (b)). -/
def Instr.wf (c : Config) (i : Instr) : Bool :=
  match i.operand with
  | some a => Addr.wf c a
  | none => true

/-- A program the host may run: no reserved word and no word of class EV (R58). -/
def programWf (ws : List OpWord) : Bool := ws.all hostWord

/-- A handler the interrupt context may run: IRQ.ENTER, then operations of the interrupt context other
than entry and return, then IRQ.EXIT (R62, R147). -/
def handlerWf (is : List Instr) : Bool :=
  is.head? == some .irqEnter && is.getLast? == some .irqExit
    && is.all (fun i => i.agent == .interrupt)
    && is.tail.dropLast.all (fun i => i != .irqEnter && i != .irqExit)

end Sys2Proof
end

