-- ==== Sys2Proof/Machine/Turns.lean ====
section
/-! DEFINITION. What one turn does (R9): the agent's next operation word is fetched, decoded and
performed; or time passes; or the caller acts on the frame memory. And how a word is placed so that the
next step performs it. -/

namespace Sys2Proof.Machine

/-- The next turn: the first one the outside world has named, else a free one (R9). -/
def State.nextTurn (s : State) : Turn :=
  match s.turns with
  | t :: _ => t
  | [] => Config.freeTurn s.draws

/-- The state once the turn is taken off the list, or drawn. -/
def State.afterTurn (s : State) : State :=
  match s.turns with
  | _ :: ts => { s with turns := ts }
  | [] => { s with draws := s.draws + 1 }

/-- The next operation word of an agent, none if it has none. The foreground has none while the handler
runs, which preempts it (R147), and none when its program is over (R134). The interrupt context outside
the handler can only enter it (R147, R151). The generator alternates its edges (R14); each channel has
its one service. -/
def State.nextWord (s : State) : Agent → Option OpWord
  | .foreground => if s.hostInh then none else s.fgProg[s.fgPos]?
  | .interrupt =>
    match s.ihProg[s.ihPos]? with
    | some w => if s.hostInh || w == encode .irqEnter then some w else none
    | none => none
  | .generator => some (encode (match s.ecgNext with | .A => .edgeA | .B => .edgeB))
  | .dataChannel => some (encode .dchXfer)
  | .clockChannel => some (encode .cchXfer)

/-- An agent performs an operation word: a reserved word is refused (R58), an operation of another agent
is refused (R151), any other is performed. -/
def performWord (a : Agent) (w : OpWord) (s : State) : Answer :=
  match decode w with
  | none => .refused .reservedOperation
  | some i => if i.agent = a then exec i s else .refused .wrongAgent

/-- One turn. An agent without a next operation makes no step. DESIGN CHOICE: the caller may act on memory
at any moment, also while the handler runs (log entry 24) and while the DataChannel is stuck (log entry 9);
an act past `2 ^ AW` is refused (log entry 13). -/
def takeTurn (t : Turn) (s : State) : Answer :=
  match t with
  | .agent a =>
    match s.nextWord a with
    | some w => performWord a w s
    | none => .next s
  | .time d => .next { s with now := s.now + d }
  | .callerOwn base words =>
    if s.memTop < base + 2 * words.length then .refused .noSuchAddress
    else .next (s.declare base words)
  | .callerFree base size =>
    .next { s with owned := s.owned.flatMap (fun r => r.without base size) }
  | .callerStore a w =>
    if s.memTop < a + 2 then .refused .noSuchAddress else .next (s.storeWord a w)
  | .callerStoreByte a b =>
    if s.memTop < a + 1 then .refused .noSuchAddress else .next (s.storeByte a b)

/-- The programs of the host hold no reserved word and no word of class EV (R58). -/
def State.programsOk (s : State) : Bool := programWf s.fgProg && programWf s.ihProg

/-- One step: an invalid configuration has no run (R6), nor has a program with a reserved word (R58);
otherwise the next turn is taken. -/
def runStep (s : State) : Answer :=
  if !s.cfg.wf then .refused .badConfig
  else if !s.programsOk then .refused .reservedOperation
  else takeTurn s.nextTurn s.afterTurn

/-- The state `s` with the word `w` as the next operation of the agent it belongs to, and that agent's
turn next. An operation of the foreground becomes its program (with the handler not running), one of the
interrupt context becomes the handler (running, unless the word is its entry), an edge becomes the
generator's next edge; a reserved word becomes the foreground's program. -/
def State.placeWord (s : State) (w : OpWord) : State :=
  match decode w with
  | none => { s with turns := .agent .foreground :: s.turns, fgProg := [w], fgPos := 0, hostInh := false }
  | some i =>
    let s := { s with turns := .agent i.agent :: s.turns }
    match i.agent with
    | .foreground => { s with fgProg := [w], fgPos := 0, hostInh := false }
    | .interrupt => { s with ihProg := [w], ihPos := 0, hostInh := s.hostInh || i != .irqEnter }
    | .generator => { s with ecgNext := if i = .edgeA then .A else .B }
    | .dataChannel | .clockChannel => s

end Sys2Proof.Machine
end

