-- ==== Sys2Proof/Machine/Step.lean ====
section
/-! DEFINITION. The step of the machine, and how a word is placed where the next step fetches it. -/

namespace Sys2Proof.Machine

/-- One step of the whole machine (R9). -/
def step (s : State) : Host.Outcome State Fault Refusal := runStep s

/-- The state `s` with the operation whose `nbits` bits are `w` where the next step fetches it. -/
def State.withFetchWord (s : State) (nbits w : Nat) : State :=
  s.placeWord (BitVec.ofNat 40 (w % 2 ^ nbits))

end Sys2Proof.Machine
end

