-- ==== Sys2Proof/Machine/Executions.lean ====
section
/-! DEFINITION. Infinite executions and the fairness the claims on endings rest on: 00_scope.md R9,
40_edge_clock_generator.md R77, 42_clock_channel.md R95, 60_exceptions.md R153, 70_reset_and_hazards.md
R188. -/

namespace Sys2Proof.Machine

/-- An infinite execution (R9): `ρ n` is the state at moment `n` and `τ n` the turn taken there. Any turn
may be taken at any moment; none of the steps is a refusal. -/
def IsExecution (ρ : Nat → State) (τ : Nat → Turn) : Prop :=
  ∀ n, step { ρ n with turns := [τ n] } = .next (ρ (n + 1))

/-- The operation is enabled (R8): it is the next operation of its agent, and it has a step. An operation
that is held has none and leaves the state as it is (log entry 5). -/
def State.Enabled (s : State) (i : Instr) : Prop :=
  s.nextWord i.agent = some (encode i) ∧ ∃ t, exec i s = .next t ∧ t ≠ s

/-- The execution takes the operation at moment `n`. -/
def Takes (ρ : Nat → State) (τ : Nat → Turn) (i : Instr) (n : Nat) : Prop :=
  τ n = .agent i.agent ∧ (ρ n).Enabled i

/-- Weak fairness of one operation while `ECG.RUN = 1`, which INIT sets for good (R14, R76, R77): if it stays
enabled it is taken. -/
def WeaklyFair (ρ : Nat → State) (τ : Nat → Turn) (i : Instr) : Prop :=
  ∀ n, (∀ m, n ≤ m → (ρ m).ecgRun = true ∧ (ρ m).Enabled i) → ∃ m, n ≤ m ∧ Takes ρ τ i m

/-- Strong fairness of one operation (R95): if it is enabled again and again it is taken again and again. -/
def StronglyFair (ρ : Nat → State) (τ : Nat → Turn) (i : Instr) : Prop :=
  (∀ n, ∃ m, n ≤ m ∧ (ρ m).Enabled i) → ∀ n, ∃ m, n ≤ m ∧ Takes ρ τ i m

/-- `NOW` exceeds every bound (R153). -/
def TimePasses (ρ : Nat → State) : Prop := ∀ b, ∃ n, b < (ρ n).now

/-- The fairness that claims on the end of a run rest on (R9, R188): weak fairness of the hardware's events,
strong fairness of the one step XFER.GO when `START_ALIGNED = true`, and the unbounded growth of `NOW`. -/
structure Fair (ρ : Nat → State) (τ : Nat → Turn) : Prop where
  events : ∀ i, i.opClass = .ev → WeaklyFair ρ τ i
  go : (ρ 0).cfg.startAligned = true → StronglyFair ρ τ .xferGo
  time : TimePasses ρ

/-- Progress of the host: an operation of the foreground or of the handler that stays enabled is taken. The
fairness of R9 speaks of the hardware's events, of XFER.GO and of `NOW`; that a `show` returns (R133) needs the
host to run its own operations too. DESIGN CHOICE (log entry 25): the claim on its return has this premise. -/
def HostProgress (ρ : Nat → State) (τ : Nat → Turn) : Prop :=
  ∀ i, i.opClass ≠ .ev → WeaklyFair ρ τ i

end Sys2Proof.Machine
end

