-- ==== Sys2Proof/Machine/Observe.lean ====
section
/-! DEFINITION. What the spec derives from the state and from `TRACE`: the phase of the TransferState
(10_state.md R22), the line decode of the strips (43_port_mux.md R105), the port writes of a transfer
(R107), the end of a run (45_transfer_gate.md R134), and the launch of a program (30_encoding.md R60). -/

namespace Sys2Proof.Machine

/-- The three logical phases of the TransferState (R22). -/
inductive Phase where
  | idle
  | active
  | latching
  deriving DecidableEq, Repr

/-- TransferState is not stored: it is a function of `GATE.ACTIVE`, `GATE.CTS` and `NOW` (R22). -/
def State.phase (s : State) : Phase :=
  if s.gateActive then .active
  else if s.now - s.gateCts < s.cfg.tLatch then .latching
  else .idle

/-- The port values at the clock rises of a list of port writes, the port being at `before` first: a
clock rise is a write after which line `c` is 1 where before it was 0 (R105). -/
def clockRises (c : Nat) (before : Word) : List PortWrite → List Word
  | [] => []
  | e :: es =>
    if !before.getLsbD c && e.value.getLsbD c then e.value :: clockRises c e.value es
    else clockRises c e.value es

/-- The bits the strip on line `i` receives: its line sampled at each clock rise (R105). -/
def lineBits (c : Nat) (before : Word) (es : List PortWrite) (i : Nat) : List Bool :=
  (clockRises c before es).map (fun v => v.getLsbD i)

/-- The port writes `D_k, C_k, D_(k+1), C_(k+1), ...` of ticks from `k` on, for the given words (R39,
R107). -/
def tickWrites (mask : Word) (k : Nat) : List Word → List PortWrite
  | [] => []
  | w :: ws => ⟨.D, k, w⟩ :: ⟨.C, k, w ||| mask⟩ :: tickWrites mask (k + 1) ws

/-- The `2N + 1` entries a `show` adds to `TRACE` for the words it sends (R107). -/
def transferTrace (c : Config) (ws : List Word) : List PortWrite :=
  tickWrites c.clkmask 0 ws ++ [⟨.I, 0, c.idleLevel⟩]

/-- The words of the buffer at `base` (R31). -/
def State.bufferWords (s : State) (base : Nat) : List Word :=
  (List.range s.cfg.n).map (fun k => s.readWord (base + 2 * k))

/-- Every byte of the buffer at `base` lies in declared memory (R35). -/
def State.ownsBuffer (s : State) (base : Nat) : Bool :=
  (List.range (2 * s.cfg.n)).all (fun j => s.owns (base + j))

/-- The turns of one tick: edge A, the DataChannel's service, edge B, the ClockChannel's service. -/
def tickTurns : List Turn :=
  [.agent .generator, .agent .dataChannel, .agent .generator, .agent .clockChannel]

/-- The turns of `n` ticks. -/
def ticksTurns : Nat → List Turn
  | 0 => []
  | n + 1 => tickTurns ++ ticksTurns n

/-- A program of the host is over (R134): no foreground operation left, the handler not running, no
completion pending, both channels disabled. -/
def State.runOver (s : State) : Bool :=
  decide (s.fgProg.length ≤ s.fgPos) && !s.hostInh && !s.sigDone && !s.dchEn && !s.cchEn

/-- A program text of R60 at power-on: its `CFG` line, its `MEM` lines, its operations; then the turns
the outside world names. DESIGN CHOICE (log entry 13): the loader stores the words it is given as they are;
that a `MEM` line stays below `2 ^ AW` is checked by the reader of the text (`readLine`). -/
def State.launch (c : Config) (memLines : List (Nat × List Word)) (prog : List Instr)
    (turns : List Turn) : State :=
  let s := memLines.foldl (fun s line => s.declare line.1 line.2) (State.powerOn c)
  { s with fgProg := assemble prog, turns := turns }

end Sys2Proof.Machine
end

