-- ==== Sys2Proof/Machine/Text.lean ====
section
/-! DEFINITION. The text of programs and traces (30_encoding.md R60): a reader of program text and a
writer of traces. Texts are lists of characters. -/

namespace Sys2Proof.Machine

/-- A text. -/
abbrev Chars := List Char

/-! ## Numbers -/

/-- A hexadecimal digit, in capitals. -/
def hexDigit (n : Nat) : Char := Char.ofNat (if n < 10 then 48 + n else 55 + n)

/-- A number in `width` hexadecimal digits, the most significant first. -/
def hexChars : Nat → Nat → Chars
  | 0, _ => []
  | width + 1, n => hexChars width (n / 16) ++ [hexDigit (n % 16)]

/-- The value of a digit, up to `F`. -/
def digitValue (c : Char) : Option Nat :=
  if 48 ≤ c.toNat ∧ c.toNat ≤ 57 then some (c.toNat - 48)
  else if 65 ≤ c.toNat ∧ c.toNat ≤ 70 then some (c.toNat - 55)
  else if 97 ≤ c.toNat ∧ c.toNat ≤ 102 then some (c.toNat - 87)
  else none

/-- A number written in a base of at most 16, none if a character is no digit of it. -/
def readNumber (base : Nat) (cs : Chars) : Option Nat :=
  if cs = [] then none
  else cs.foldlM (fun acc c => (digitValue c).bind fun d =>
    if d < base then some (acc * base + d) else none) 0

/-- A hexadecimal number, with or without `0x` before it. -/
def readHex (cs : Chars) : Option Nat :=
  match cs with
  | '0' :: 'x' :: ds => readNumber 16 ds
  | ds => readNumber 16 ds

/-- A 16-bit word in hexadecimal. -/
def readWordText (cs : Chars) : Option Word :=
  (readHex cs).bind fun n => if n < 2 ^ 16 then some (BitVec.ofNat 16 n) else none

/-- A Boolean written `0` or `1`. -/
def readBit (cs : Chars) : Option Bool :=
  match cs with
  | ['0'] => some false
  | ['1'] => some true
  | _ => none

/-- A byte order, written as R5 writes its two values (log entry 19). -/
def readByteOrder (cs : Chars) : Option ByteOrder :=
  if cs = "little".toList then some .little
  else if cs = "big".toList then some .big
  else none

/-! ## Lines and tokens -/

/-- The parts of a text between the occurrences of a character. -/
def splitAtChar (sep : Char) (cs : Chars) : List Chars :=
  cs.foldr (fun c parts =>
    if c = sep then [] :: parts
    else match parts with
      | [] => [[c]]
      | p :: ps => (c :: p) :: ps) [[]]

/-- The tokens of a line, its comment left out ("Comments start with `;`"). -/
def lineTokens (line : Chars) : List Chars :=
  (splitAtChar ' ' (line.takeWhile (fun c => c != ';'))).filter (fun t => t != [])

/-! ## Operations -/

/-- The operations written without an operand. -/
def plainOperations : List Instr :=
  [.init, .latchClr, .dchStart, .cchStart, .xferGo, .xferDisable, .doneAck, .portIdle,
    .edgeA, .edgeB, .dchXfer, .cchXfer, .gateWaitIdle, .gateSetActive, .gateWaitLatch, .gateBusy,
    .tsRecord, .gateClrActive, .irqEnter, .irqExit]

/-- Symbols bound to byte addresses. How a symbol is bound is not in the spec: the reader is given them. -/
abbrev Symbols := List (Chars × Addr)

/-- The operand: a symbol, or a hexadecimal byte address. -/
def readOperand (syms : Symbols) (t : Chars) : Option Addr :=
  match syms.lookup t with
  | some a => some a
  | none => (readHex t).bind fun n => if n < 2 ^ 32 then some (BitVec.ofNat 32 n) else none

/-- The operations a line stands for: one operation of R57, or the expansion of a macro of R62. HANDLER
"is never written in a foreground program" and is not read. -/
def readOperation (syms : Symbols) (line : List Chars) : Option (List Instr) :=
  match line with
  | [m] =>
    match plainOperations.find? (fun i => i.mnemonic.toList == m) with
    | some i => some [i]
    | none =>
      if m = "BUSY".toList then some (Macro.expand .busy)
      else if m = "START3".toList then some (Macro.expand .start3)
      else none
  | [m, operand] =>
    (readOperand syms operand).bind fun a =>
      if m = "DCH.ARM".toList then some [.dchArm a]
      else if m = "BUF.SCRUB".toList then some [.bufScrub a]
      else if m = "SHOW".toList then some (Macro.expand (.showBuf a))
      else none
  | _ => none

/-! ## Programs -/

/-- A program text: its configuration, the buffers its memory lines give, its operations. -/
structure ProgramText where
  cfg : Config
  memLines : List (Nat × List Word)
  ops : List Instr
  deriving DecidableEq, Repr

/-- The names a configuration line may give: the three of R60 and the spec's own parameters of R5. DESIGN
CHOICE (log entry 19): `AW` and `BYTE_ORDER`, which R60 does not show, are among them; `FREQ` and the phases,
which no rule reads, are not. -/
def cfgNames : List Chars :=
  ["BUFSIZE".toList, "CLKMASK".toList, "SKIPCLR".toList, "IDLE_LEVEL".toList, "START_ALIGNED".toList,
    "T_LATCH".toList, "AW".toList, "BYTE_ORDER".toList]

/-- A `NAME=value` of a configuration line. -/
def readSetting (t : Chars) : Option (Chars × Chars) :=
  match splitAtChar '=' t with
  | [name, value] => if name ∈ cfgNames then some (name, value) else none
  | _ => none

/-- A configuration line. `T_LATCH` has no default (92_eei_decisions.md D21) and must stand in it; the
rate and the phases, which no rule reads and no text names, are those of `Config.scenario`. -/
def readCfg (line : List Chars) : Option Config :=
  match line with
  | [] => none
  | head :: settings =>
    if head ≠ "CFG".toList then none
    else do
      let pairs ← settings.mapM readSetting
      let bufsize ← (pairs.lookup "BUFSIZE".toList).bind (readNumber 10)
      let clkmask ← (pairs.lookup "CLKMASK".toList).bind readWordText
      let skipclr ← (pairs.lookup "SKIPCLR".toList).bind readBit
      let tLatch ← (pairs.lookup "T_LATCH".toList).bind (readNumber 10)
      let idleLevel ← readWordText ((pairs.lookup "IDLE_LEVEL".toList).getD ['0'])
      let startAligned ← readBit ((pairs.lookup "START_ALIGNED".toList).getD ['1'])
      let aw ← readNumber 10 ((pairs.lookup "AW".toList).getD "32".toList)
      let byteOrder ← readByteOrder ((pairs.lookup "BYTE_ORDER".toList).getD "little".toList)
      pure { Config.scenario with
        bufsize := bufsize
        clkmask := clkmask
        skipclr := skipclr
        tLatch := tLatch
        idleLevel := idleLevel
        aw := aw
        byteOrder := byteOrder
        startAligned := startAligned }

/-- A memory line `MEM <addr>: <w0> <w1> ...`, none if the line is another one. -/
def readMem (line : List Chars) : Option (Nat × List Word) :=
  match line with
  | head :: addr :: words =>
    if head = "MEM".toList ∧ addr.getLast? = some ':' then do
      let a ← readHex addr.dropLast
      let ws ← words.mapM readWordText
      pure (a, ws)
    else none
  | _ => none

/-- One line after the configuration line, added to the program read so far. DESIGN CHOICE (log entry 13):
a memory line that runs past `2 ^ AW` is not read. -/
def readLine (syms : Symbols) (p : ProgramText) (line : List Chars) : Option ProgramText :=
  match readMem line with
  | some m =>
    if 2 ^ p.cfg.aw < m.1 + 2 * m.2.length then none
    else some { p with memLines := p.memLines ++ [m] }
  | none => (readOperation syms line).map fun is => { p with ops := p.ops ++ is }

/-- A whole program text (R60). -/
def readProgram (syms : Symbols) (text : Chars) : Option ProgramText :=
  match ((splitAtChar '\n' text).map lineTokens).filter (fun l => l != []) with
  | [] => none
  | first :: rest => (readCfg first).bind fun c => rest.foldlM (readLine syms) ⟨c, [], []⟩

/-- The machine at power-on with a program text loaded. -/
def ProgramText.start (p : ProgramText) (turns : List Turn) : State :=
  State.launch p.cfg p.memLines p.ops turns

/-! ## Traces -/

/-- One operation as a line of text. -/
def Instr.text (i : Instr) : Chars :=
  match i.operand with
  | some a => i.mnemonic.toList ++ " 0x".toList ++ hexChars 8 a.toNat
  | none => i.mnemonic.toList

/-- The operations that write the port (R17). -/
def Instr.writesPort : Instr → Bool
  | .init | .portIdle | .dchXfer | .cchXfer => true
  | .dchArm _ | .latchClr | .dchStart | .cchStart | .xferGo | .xferDisable | .doneAck | .edgeA
  | .edgeB | .gateWaitIdle | .gateSetActive | .bufScrub _ | .gateWaitLatch | .gateBusy | .tsRecord
  | .gateClrActive | .irqEnter | .irqExit => false

/-- The line of a trace for an operation that left the state `t`: after an operation that writes the port
stands `; OUT=` and the port's level. -/
def traceLine (i : Instr) (t : State) : Chars :=
  Instr.text i ++
    if Instr.writesPort i then " ; OUT=".toList ++ hexChars 4 t.portOut.toNat else []

/-- The operation the next step issues, if it issues one. -/
def State.issued (s : State) : Option Instr :=
  match s.nextTurn with
  | .agent a => (s.nextWord a).bind decode
  | .time _ | .callerOwn _ _ | .callerFree _ _ | .callerStore _ _ | .callerStoreByte _ _ => none

/-- The trace of `k` steps (R54, R60): one line for each operation performed, in order. A turn in which an
operation was held, or its guard was false, gives no line. -/
def State.traceText : Nat → State → List Chars
  | 0, _ => []
  | k + 1, s =>
    match step s with
    | .next t =>
      (match s.issued with
        | some i => if t = s.afterTurn then [] else [traceLine i t]
        | none => []) ++ State.traceText k t
    | .fault _ => []
    | .refused _ => []

end Sys2Proof.Machine
end

