-- ==== Sys2Proof/Safety.lean ====
section
/-! DEFINITION. The terms claims are made in: runs, the invariants of 10_state.md R24, the lawful order
of port writes (20_memory.md R39), and host programs that keep to the source's entry points. -/

namespace Sys2Proof.Machine

/-- `k` steps take `s` to `t`, none of them a fault or a refusal. -/
def Runs : Nat → State → State → Prop
  | 0, s, t => s = t
  | k + 1, s, t => ∃ u, step s = .next u ∧ Runs k u t

/-- The next step of `s` performs the operation `i`: the next turn is an agent's and `i` is its operation. -/
def State.Performs (s : State) (i : Instr) : Prop :=
  ∃ a w, s.nextTurn = .agent a ∧ s.nextWord a = some w ∧ decode w = some i

/-- The row of an operation in the operation map (R57): its word, read both ways, its class and its
agent. -/
def hasRow (i : Instr) (w : OpWord) (c : OpClass) (a : Agent) : Prop :=
  encode i = w ∧ decode w = some i ∧ i.opClass = c ∧ i.agent = a

/-- What every step keeps, whatever the programs and the turns are: the configuration is valid, memory is
canonical, a disabled channel's cursor is 0 and every cursor is below `N` (R24 (a), (b)), the timestamp is
not above `NOW` (R131), and no race outlives its pass (R41). -/
structure State.Sound (s : State) : Prop where
  cfgValid : configValid s.cfg = true
  memWf : s.mem.wf
  dchRest : s.dchEn = false → s.dchIdx = 0
  cchRest : s.cchEn = false → s.cchIdx = 0
  dchIdxLt : s.dchIdx < s.cfg.n
  cchIdxLt : s.cchIdx < s.cfg.n
  ctsLe : s.gateCts ≤ s.now
  racedRest : s.dchEn = false → s.raced = []

/-- Where an aligned transfer stands in its tick: what the next port write is (R39). -/
inductive Expected where
  /-- No transfer has begun: `D_0` or an idle write. -/
  | rest
  /-- `D_k`, for `k > 0`. -/
  | data (k : Nat)
  /-- `C_k`. -/
  | clock (k : Nat)
  deriving DecidableEq, Repr

/-- One port write against what is expected: `D_k` takes any word; `C_k` sets the clock bits on the level
before it; an idle write drives `IDLE_LEVEL`. None if the write is out of order. -/
def acceptWrite (c : Config) : Expected × Word → PortWrite → Option (Expected × Word)
  | (.rest, _), ⟨.D, k, v⟩ => if k = 0 then some (.clock 0, v) else none
  | (.rest, _), ⟨.I, k, v⟩ => if k = 0 ∧ v = c.idleLevel then some (.rest, v) else none
  | (.rest, _), ⟨.C, _, _⟩ => none
  | (.data j, _), ⟨.D, k, v⟩ => if k = j then some (.clock j, v) else none
  | (.data _, _), ⟨.C, _, _⟩ => none
  | (.data _, _), ⟨.I, _, _⟩ => none
  | (.clock j, old), ⟨.C, k, v⟩ =>
    if k = j ∧ v = old ||| c.clkmask then
      some (if j + 1 = c.n then .rest else .data (j + 1), v)
    else none
  | (.clock _, _), ⟨.D, _, _⟩ => none
  | (.clock _, _), ⟨.I, _, _⟩ => none

/-- A list of port writes in the order of R39, from a point of a transfer; none if it is not. -/
def acceptWrites (c : Config) (start : Expected × Word) (es : List PortWrite) :
    Option (Expected × Word) :=
  es.foldlM (acceptWrite c) start

/-- What the channels' cursors and enables say the next port write is. -/
def State.expected (s : State) : Expected :=
  if !s.cchEn then .rest
  else if s.dchEn && s.dchIdx == s.cchIdx then
    (if s.cchIdx = 0 then .rest else .data s.cchIdx)
  else .clock s.cchIdx

/-- The channels in lock step (R24 (d), R91): both disabled; or the DataChannel is next, with edge A to
come or latched; or the DataChannel has served tick `CCH.IDX`, with edge B to come or latched. -/
def State.LockStep (s : State) : Prop :=
  (s.dchEn = false ∧ s.cchEn = false) ∨
  (s.dchEn = true ∧ s.cchEn = true ∧ s.dchIdx = s.cchIdx ∧ s.latB = false ∧
    s.latA = (s.ecgNext == .B)) ∨
  (s.cchEn = true ∧ s.dchIdx = nextIdx s.cfg.n s.cchIdx ∧
    s.dchEn = !lastOfPass s.cfg.n s.cchIdx ∧ s.latA = false ∧ s.latB = (s.ecgNext == .A))

/-- What every step keeps when `START_ALIGNED = true`, once INIT has run: lock step (R24 (d)), no pending
completion and no running handler while a channel is enabled (R24 (c)), and every port write so far in the
order of R39, the last one being the port's level. -/
structure State.Aligned (s : State) : Prop where
  sound : s.Sound
  aligned : s.cfg.startAligned = true
  lockStep : s.hostInited = true → s.LockStep
  doneRest : s.hostInited = true → s.sigDone = true → s.cchEn = false
  handlerRest : s.hostInited = true → s.hostInh = true → s.cchEn = false
  ordered : s.hostInited = true →
    acceptWrites s.cfg (.rest, s.cfg.idleLevel) s.trace = some (s.expected, s.portOut)

/-- One call of the host through the source's entry points (R24 (e), R61). -/
inductive HostCall where
  | init
  | showBuf (buf : Addr)
  | busy
  deriving DecidableEq, Repr

/-- The operations of one call (R62). -/
def HostCall.expand : HostCall → List Instr
  | .init => [.init]
  | .showBuf buf => Macro.expand (.showBuf buf)
  | .busy => Macro.expand .busy

/-- The operations of a sequence of calls. -/
def hostCalls (calls : List HostCall) : List Instr := calls.flatMap HostCall.expand

/-- Power-on with the buffers of the caller in its memory, a program of host calls, and the handler of R147
installed. -/
def State.hostStart (c : Config) (memLines : List (Nat × List Word)) (calls : List HostCall)
    (turns : List Turn) : State :=
  State.launch c memLines (hostCalls calls) turns

/-- The operation the foreground stands at, whether or not the handler preempts it. -/
def State.foregroundAt (s : State) : Option Instr := (s.fgProg[s.fgPos]?).bind decode

/-- The operations of `show` between its setting of the Active flag and its start of the transfer (R127). -/
def startDue : Instr → Bool
  | .bufScrub _ | .dchArm _ | .xferGo => true
  | .init | .latchClr | .dchStart | .cchStart | .xferDisable | .doneAck | .portIdle | .edgeA | .edgeB
  | .dchXfer | .cchXfer | .gateWaitIdle | .gateSetActive | .gateWaitLatch | .gateBusy | .tsRecord
  | .gateClrActive | .irqEnter | .irqExit => false

/-- Where a host that keeps to `show` and `busy` stands (R127, R147), once INIT has run. -/
inductive HostStage where
  /-- No transfer: the Active flag is set exactly between GATE.SETACTIVE and XFER.GO. -/
  | quiet
  /-- The channels run, the foreground waits. -/
  | flight
  /-- The completion is pending, the foreground waits. -/
  | pending
  /-- The handler runs and has done `k` of its steps. -/
  | handler (k : Nat)
  deriving DecidableEq, Repr

/-- What the state holds at each stage: the channels' enables, `SIG.DONE`, the Active flag, `HOST.INH`, and
the positions of the foreground and of the handler. -/
def State.AtStage (s : State) : HostStage → Prop
  | .quiet =>
    s.cchEn = false ∧ s.sigDone = false ∧ s.hostInh = false ∧ s.ihPos = 0 ∧
      (s.gateActive = true ↔ ∃ i, s.foregroundAt = some i ∧ startDue i = true)
  | .flight =>
    s.cchEn = true ∧ s.sigDone = false ∧ s.hostInh = false ∧ s.ihPos = 0 ∧ s.gateActive = true ∧
      s.foregroundAt = some .gateWaitLatch
  | .pending =>
    s.cchEn = false ∧ s.sigDone = true ∧ s.hostInh = false ∧ s.ihPos = 0 ∧ s.gateActive = true ∧
      s.foregroundAt = some .gateWaitLatch
  | .handler k =>
    s.cchEn = false ∧ s.hostInh = true ∧ s.ihPos = k ∧ 1 ≤ k ∧ k ≤ 5 ∧ s.sigDone = (k == 1) ∧
      s.gateActive = (k != 5) ∧ s.foregroundAt = some .gateWaitLatch

/-- The invariant behind R24 (e), with `START_ALIGNED = true`: an aligned state of a host whose program is made
of INIT, `show` and `busy`, with the handler of R147 installed, at one of the stages. -/
structure State.HostProtocol (s : State) : Prop where
  aligned : s.Aligned
  program : ∃ calls, s.fgProg = assemble (hostCalls calls)
  handler : s.ihProg = assemble (Macro.expand .handler)
  beforeInit : s.hostInited = false → s.hostInh = false ∧ s.ihPos = 0
  stage : s.hostInited = true → ∃ g, s.AtStage g

end Sys2Proof.Machine
end

