-- ==== Sys2Proof/Certificates/Slice0/Obligations.lean ====
section
/-! DEFINITION. The statements for the provers. Each docstring names the rule of spec/ it formalises. A
clause that rests on a choice of the model names the log entry. -/

open Sys2Proof Sys2Proof.Machine

/-! ## Operation words (30_encoding.md) -/

/-- R54, R57: the word of every operation, with its operand at every value, decodes to that operation,
also in the numbering of `opcode_table.json`. -/
def Obligations.DecodeOfEncode : Prop :=
  ∀ i : Instr, decode (encode i) = some i ∧ decodeTableWord 40 (encode i).toNat = some i

/-- R54, R57: a word that decodes is the word of the operation it decodes to, so no two words stand for
one operation and no bit is ignored. -/
def Obligations.EncodeOfDecode : Prop :=
  ∀ (w : OpWord) (i : Instr), decode w = some i → encode i = w

/-- R58: the reserved words are exactly the listed `OP` values and the words whose `ARG` is not 0 where
the map says 0; a program that holds a reserved word or a word of class EV is refused. That the refusal
falls at every step, and that the installed handler is checked as a program is, is the model's (log entry
12). -/
def Obligations.ReservedWordsAreRefused : Prop :=
  (∀ w : OpWord, decode w = none ↔
    ((opField w).toNat = 0x00 ∨ (0x0A ≤ (opField w).toNat ∧ (opField w).toNat ≤ 0x0F) ∨
      (0x14 ≤ (opField w).toNat ∧ (opField w).toNat ≤ 0x1F) ∨ 0x29 ≤ (opField w).toNat ∨
      (argField w ≠ 0 ∧ (opField w).toNat ≠ 0x02 ∧ (opField w).toNat ≠ 0x22))) ∧
  (∀ (s : State) (w : OpWord), s.cfg.wf = true → (w ∈ s.fgProg ∨ w ∈ s.ihProg) →
    (decode w = none ∨ ∃ i, decode w = some i ∧ i.opClass = .ev) →
    step s = .refused .reservedOperation)

/-- 95_test_vectors.md 2.1: words written out from the operation map decode as listed there. -/
def Obligations.SpecWordsDecode : Prop :=
  decode 0x0100000000 = some .init ∧
  decode 0x0220000100 = some (.dchArm 0x20000100) ∧
  decode 0x0600000000 = some .xferGo ∧
  decode 0x0900000000 = some .portIdle ∧
  decode 0x1000000000 = some .edgeA ∧
  decode 0x1300000000 = some .cchXfer ∧
  decode 0x2220000100 = some (.bufScrub 0x20000100) ∧
  decode 0x2800000000 = some .irqExit ∧
  decode 0x0A00000000 = none ∧
  decode 0x0600000001 = none

/-- R60: the text of an operation reads back as that operation, its operand at every value. -/
def Obligations.OperationTextReadsBack : Prop :=
  ∀ i : Instr, readOperation [] (lineTokens (Machine.Instr.text i)) = some [i]

/-! ## The step (00_scope.md R9) -/

/-- R54, R58, R146, R147: a step on a turn of the foreground or of the interrupt context performs the
operation its next word decodes to, with the turn taken off the list. -/
def Obligations.StepRunsTheHostsNextOperation : Prop :=
  ∀ (s : State) (ts : List Turn) (w : OpWord) (i : Instr),
    s.cfg.wf = true → s.programsOk = true → decode w = some i →
    (s.turns = .agent .foreground :: ts → s.hostInh = false → s.fgProg[s.fgPos]? = some w →
      i.agent = .foreground → step s = exec i { s with turns := ts }) ∧
    (s.turns = .agent .interrupt :: ts → (s.hostInh = true ∨ i = .irqEnter) →
      s.ihProg[s.ihPos]? = some w → i.agent = .interrupt →
      step s = exec i { s with turns := ts })

/-- R9, R14: a step on a turn of the generator performs the edge `ECG.NEXT` names; a step on a turn of a
channel performs its service. -/
def Obligations.StepRunsTheHardwaresNextEvent : Prop :=
  ∀ (s : State) (ts : List Turn), s.cfg.wf = true → s.programsOk = true →
    (s.turns = .agent .generator :: ts → s.ecgNext = .A → step s = exec .edgeA { s with turns := ts }) ∧
    (s.turns = .agent .generator :: ts → s.ecgNext = .B → step s = exec .edgeB { s with turns := ts }) ∧
    (s.turns = .agent .dataChannel :: ts → step s = exec .dchXfer { s with turns := ts }) ∧
    (s.turns = .agent .clockChannel :: ts → step s = exec .cchXfer { s with turns := ts })

/-- R151: an operation issued by another agent than the one the map names is refused. -/
def Obligations.OperationOfAnotherAgentIsRefused : Prop :=
  ∀ (s : State) (ts : List Turn) (w : OpWord) (i : Instr),
    s.cfg.wf = true → s.programsOk = true → decode w = some i →
    (s.turns = .agent .foreground :: ts → s.hostInh = false → s.fgProg[s.fgPos]? = some w →
      i.agent ≠ .foreground → step s = .refused .wrongAgent) ∧
    (s.turns = .agent .interrupt :: ts → s.hostInh = true → s.ihProg[s.ihPos]? = some w →
      i.agent ≠ .interrupt → step s = .refused .wrongAgent)

/-- R134, R147, R151: the foreground makes no step while the handler runs or when its program is over,
and the interrupt context makes none outside the handler except to enter it (that its next word decides this,
log entry 10). That a turn without a step leaves the state as it is, but for the turn taken off the list, is the
model's form (log entries 3 and 5). -/
def Obligations.AgentWithoutOperationMakesNoStep : Prop :=
  ∀ (s : State) (ts : List Turn), s.cfg.wf = true → s.programsOk = true →
    (s.turns = .agent .foreground :: ts → (s.hostInh = true ∨ s.fgProg.length ≤ s.fgPos) →
      step s = .next { s with turns := ts }) ∧
    (s.turns = .agent .interrupt :: ts → s.hostInh = false →
      s.ihProg[s.ihPos]? ≠ some (encode .irqEnter) → step s = .next { s with turns := ts })

/-- R6: a configuration is valid exactly when `BUFSIZE` is even and above 0, `CLKMASK` has exactly one
bit set and `IDLE_LEVEL & CLKMASK = 0`; an invalid one has no run. -/
def Obligations.InvalidConfigurationHasNoRun : Prop :=
  ∀ s : State, step s = .refused .badConfig ↔
    ¬ (s.cfg.bufsize % 2 = 0 ∧ 0 < s.cfg.bufsize ∧ (∃! i, i < 16 ∧ s.cfg.clkmask.getLsbD i = true) ∧
      s.cfg.idleLevel &&& s.cfg.clkmask = 0)

/-- R9: when the outside world names no turn, any turn may be next: the step takes a free one. -/
def Obligations.UnnamedTurnIsFree : Prop :=
  ∀ s : State, s.turns = [] →
    step s = step { s with turns := [Config.freeTurn s.draws], draws := s.draws + 1 }

/-- R153, R21: a turn of time lets `NOW` grow by any amount; no step lets it fall, and no operation
changes it. -/
def Obligations.TimeOnlyGrows : Prop :=
  (∀ (s : State) (d : Nat) (ts : List Turn), s.cfg.wf = true → s.programsOk = true →
    s.turns = .time d :: ts → step s = .next { s with turns := ts, now := s.now + d }) ∧
  (∀ s t : State, step s = .next t → s.now ≤ t.now ∧ (∀ i, s.Performs i → t.now = s.now))

/-! ## EdgeClockGenerator (40_edge_clock_generator.md) -/

/-- R71: EDGE.A sets `LAT.A` and makes edge B next, whatever the enables are, unless an enabled channel
has its latch set; where the guard is false there is no step. That there is none before INIT is R171 (log
entry 22); that a step not enabled leaves the state as it is, is the model's form (log entry 5). -/
def Obligations.EdgeASetsItsLatch : Prop :=
  hasRow .edgeA 0x1000000000 .ev .generator ∧ ∀ s : State,
    (s.hostInited = true → s.ecgRun = true → s.ecgNext = .A → ¬ (s.dchEn = true ∧ s.latA = true) →
      ¬ (s.cchEn = true ∧ s.latB = true) →
      exec .edgeA s = .next { s with latA := true, ecgNext := .B }) ∧
    (s.hostInited = false ∨ s.ecgRun = false ∨ s.ecgNext = .B ∨ (s.dchEn = true ∧ s.latA = true) ∨
      (s.cchEn = true ∧ s.latB = true) → exec .edgeA s = .next s)

/-- R72: EDGE.B sets `LAT.B` and makes edge A next, under the same hold; no step before INIT is R171 (log
entry 22), and the unchanged state is the model's form of it (log entry 5). -/
def Obligations.EdgeBSetsItsLatch : Prop :=
  hasRow .edgeB 0x1100000000 .ev .generator ∧ ∀ s : State,
    (s.hostInited = true → s.ecgRun = true → s.ecgNext = .B → ¬ (s.dchEn = true ∧ s.latA = true) →
      ¬ (s.cchEn = true ∧ s.latB = true) →
      exec .edgeB s = .next { s with latB := true, ecgNext := .A }) ∧
    (s.hostInited = false ∨ s.ecgRun = false ∨ s.ecgNext = .A ∨ (s.dchEn = true ∧ s.latA = true) ∨
      (s.cchEn = true ∧ s.latB = true) → exec .edgeB s = .next s)

/-- R73, R76: after INIT some event of the hardware always changes the state, unless the DataChannel is
triggered and its read is not admitted (the one stuck state, R83 (d)). -/
def Obligations.HardwareNeverDeadlocks : Prop :=
  ∀ s : State, s.hostInited = true → s.ecgRun = true →
    (∃ i t, i.opClass = .ev ∧ exec i s = .next t ∧ t ≠ s) ∨
    (s.dchEn = true ∧ s.latA = true ∧ s.dchReadAdmitted = false)

/-! ## DataChannel (41_data_channel.md) -/

/-- R81: DCH.ARM, its four refusals in order, and its effect. `dchArmed` is the model's own field (log entry
6). -/
def Obligations.DchArmBindsTheBuffer : Prop :=
  ∀ (s : State) (src : Addr),
    hasRow (.dchArm src) ((0x02 : BitVec 8) ++ src) .hc .foreground ∧
    (s.hostInited = false → exec (.dchArm src) s = .refused .beforeInit) ∧
    (s.hostInited = true → (s.dchEn = true ∨ s.cchEn = true) →
      exec (.dchArm src) s = .refused .armWhileEnabled) ∧
    (s.hostInited = true → s.dchEn = false → s.cchEn = false → src.toNat % 2 ≠ 0 →
      exec (.dchArm src) s = .refused .misalignedBuffer) ∧
    (s.hostInited = true → s.dchEn = false → s.cchEn = false → src.toNat % 2 = 0 →
      2 ^ s.cfg.aw < src.toNat + s.cfg.bufsize → exec (.dchArm src) s = .refused .bufferPastTop) ∧
    (s.hostInited = true → s.dchEn = false → s.cchEn = false → src.toNat % 2 = 0 →
      src.toNat + s.cfg.bufsize ≤ 2 ^ s.cfg.aw →
      exec (.dchArm src) s =
        .next { s with dchSrc := src, dchArmed := true, dchIdx := 0, fgPos := s.fgPos + 1 })

/-- R82: DCH.START, its refusals in order, and its effect. -/
def Obligations.DchStartEnablesTheChannel : Prop :=
  hasRow .dchStart 0x0400000000 .hc .foreground ∧ ∀ s : State,
    (s.hostInited = false → exec .dchStart s = .refused .beforeInit) ∧
    (s.hostInited = true → s.dchEn = true → exec .dchStart s = .refused .startWhileEnabled) ∧
    (s.hostInited = true → s.dchEn = false → s.cfg.startAligned = true →
      exec .dchStart s = .refused .useXferGo) ∧
    (s.hostInited = true → s.dchEn = false → s.cfg.startAligned = false →
      exec .dchStart s = .next { s with dchEn := true, fgPos := s.fgPos + 1 })

/-- R83, R41: one service of the DataChannel, whatever stores have raced with it: the word sent is word `k` of
the bound buffer, or, after racing stores, that word or one they replaced, whole (log entry 7); it drives the
port and is traced, the latch is consumed, the cursor advances, and the `N`-th service disables the channel.
A choice made counts as a draw (log entry 8), and the races are forgotten with the pass (log entry 7). -/
def Obligations.DchXferSendsTheNextWord : Prop :=
  hasRow .dchXfer 0x1200000000 .ev .dataChannel ∧ ∀ s : State,
    s.hostInited = true → s.dchEn = true → s.latA = true → s.dchArmed = true →
    s.owns (s.dchSrc.toNat + 2 * s.dchIdx) = true →
    s.owns (s.dchSrc.toNat + 2 * s.dchIdx + 1) = true →
    ∃ w, (w = s.readWord (s.dchSrc.toNat + 2 * s.dchIdx) ∨
        (s.dchSrc.toNat + 2 * s.dchIdx, w) ∈ s.raced) ∧
      ((∀ v, (s.dchSrc.toNat + 2 * s.dchIdx, v) ∉ s.raced) →
        w = s.readWord (s.dchSrc.toNat + 2 * s.dchIdx)) ∧
      exec .dchXfer s = .next { s with
        portOut := w
        trace := s.trace ++ [⟨.D, s.dchIdx, w⟩]
        latA := false
        dchIdx := (s.dchIdx + 1) % s.cfg.n
        dchEn := decide (s.dchIdx + 1 ≠ s.cfg.n)
        raced := if s.dchIdx + 1 = s.cfg.n then [] else s.raced
        draws := if s.racedValues (s.dchSrc.toNat + 2 * s.dchIdx) = [] then s.draws else s.draws + 1 }

/-- R83, R82 (b), R35, U1: the DataChannel has no step while it is disabled, not triggered or before INIT
(R171, log entry 22); and when it is triggered on a pointer never armed (log entry 6), or on memory the
caller has not declared, it has no step and the generator has none either. That a step not enabled leaves the
state as it is, is the model's form (log entry 5). -/
def Obligations.DchXferIsHeld : Prop :=
  ∀ s : State,
    (s.hostInited = false ∨ s.dchEn = false ∨ s.latA = false → exec .dchXfer s = .next s) ∧
    (s.dchEn = true → s.latA = true →
      (s.dchArmed = false ∨ s.owns (s.dchSrc.toNat + 2 * s.dchIdx) = false ∨
        s.owns (s.dchSrc.toNat + 2 * s.dchIdx + 1) = false) →
      exec .dchXfer s = .next s ∧ exec .edgeA s = .next s ∧ exec .edgeB s = .next s)

/-- R41, R37: a host store to the word about to be sent, while the DataChannel is enabled, races with its
read: the service completes and sends the old word or the new one, whole. Which one is free. -/
def Obligations.RacingStoreGivesOldOrNewWord : Prop :=
  ∀ (s : State) (a : Nat) (w : Word) (ts : List Turn), s.cfg.wf = true → s.programsOk = true →
    s.mem.wf → s.hostInited = true → s.dchEn = true → s.latA = true → s.dchArmed = true →
    a = s.dchSrc.toNat + 2 * s.dchIdx → a % 2 = 0 → a + 2 ≤ 2 ^ s.cfg.aw →
    s.owns a = true → s.owns (a + 1) = true → s.raced = [] →
    s.turns = .callerStore a w :: .agent .dataChannel :: ts →
    ∃ t, Runs 2 s t ∧ (t.portOut = s.readWord a ∨ t.portOut = w) ∧
      t.trace = s.trace ++ [⟨.D, s.dchIdx, t.portOut⟩] ∧ t.latA = false

/-! ## ClockChannel and joint start (42_clock_channel.md) -/

/-- R92: CCH.START, its refusals in order, and its effect. -/
def Obligations.CchStartEnablesTheChannel : Prop :=
  hasRow .cchStart 0x0500000000 .hc .foreground ∧ ∀ s : State,
    (s.hostInited = false → exec .cchStart s = .refused .beforeInit) ∧
    (s.hostInited = true → s.cchEn = true → exec .cchStart s = .refused .startWhileEnabled) ∧
    (s.hostInited = true → s.cchEn = false → s.cfg.startAligned = true →
      exec .cchStart s = .refused .useXferGo) ∧
    (s.hostInited = true → s.cchEn = false → s.cfg.startAligned = false →
      exec .cchStart s = .next { s with cchEn := true, fgPos := s.fgPos + 1 })

/-- R93: one service of the ClockChannel: the clock bits are set on the port and traced, the latch is
consumed, the count advances, and the `N`-th service disables the channel and raises `SIG.DONE` in the
same step; without the trigger there is no step, nor before INIT (R171, log entry 22), the state staying as
it is (log entry 5). -/
def Obligations.CchXferPulsesTheClock : Prop :=
  hasRow .cchXfer 0x1300000000 .ev .clockChannel ∧ ∀ s : State,
    (s.hostInited = true → s.cchEn = true → s.latB = true →
      exec .cchXfer s = .next { s with
        portOut := s.portOut ||| s.cfg.clkmask
        trace := s.trace ++ [⟨.C, s.cchIdx, s.portOut ||| s.cfg.clkmask⟩]
        latB := false
        cchIdx := (s.cchIdx + 1) % s.cfg.n
        cchEn := decide (s.cchIdx + 1 ≠ s.cfg.n)
        sigDone := if s.cchIdx + 1 = s.cfg.n then true else s.sigDone }) ∧
    (s.hostInited = false ∨ s.cchEn = false ∨ s.latB = false → exec .cchXfer s = .next s)

/-- R94: LATCH.CLR clears both latches whatever the enables are. -/
def Obligations.LatchClrClearsBothLatches : Prop :=
  hasRow .latchClr 0x0300000000 .hc .foreground ∧ ∀ s : State,
    (s.hostInited = false → exec .latchClr s = .refused .beforeInit) ∧
    (s.hostInited = true → s.cfg.startAligned = true → exec .latchClr s = .refused .useXferGo) ∧
    (s.hostInited = true → s.cfg.startAligned = false →
      exec .latchClr s = .next { s with latA := false, latB := false, fgPos := s.fgPos + 1 })

/-- R95: XFER.GO, its refusals in order, its hold while the phase is wrong (the state staying as it is, log
entry 5), and its effect. -/
def Obligations.XferGoStartsBothChannels : Prop :=
  hasRow .xferGo 0x0600000000 .hc .foreground ∧ ∀ s : State,
    (s.hostInited = false → exec .xferGo s = .refused .beforeInit) ∧
    (s.hostInited = true → (s.dchEn = true ∨ s.cchEn = true) →
      exec .xferGo s = .refused .startWhileEnabled) ∧
    (s.hostInited = true → s.dchEn = false → s.cchEn = false → s.sigDone = true →
      exec .xferGo s = .refused .completionNotAcknowledged) ∧
    (s.hostInited = true → s.dchEn = false → s.cchEn = false → s.sigDone = false →
      (s.cfg.startAligned = false ∨ s.ecgNext = .A) →
      exec .xferGo s = .next { s with
        latA := false, latB := false, dchEn := true, cchEn := true, fgPos := s.fgPos + 1 }) ∧
    (s.hostInited = true → s.dchEn = false → s.cchEn = false → s.sigDone = false →
      s.cfg.startAligned = true → s.ecgNext = .B → exec .xferGo s = .next s)

/-- R96: XFER.DISABLE is admitted only where both channels are disabled, and changes nothing there but
the foreground's position. -/
def Obligations.XferDisableChangesNothing : Prop :=
  hasRow .xferDisable 0x0700000000 .hc .foreground ∧ ∀ s : State,
    (s.hostInited = false → exec .xferDisable s = .refused .beforeInit) ∧
    (s.hostInited = true → (s.dchEn = true ∨ s.cchEn = true) →
      exec .xferDisable s = .refused .noAbortPath) ∧
    (s.hostInited = true → s.dchEn = false → s.cchEn = false →
      exec .xferDisable s = .next { s with fgPos := s.fgPos + 1 })

/-! ## Port and completion signaler (43_port_mux.md, 44_completion_signaler.md) -/

/-- R103: PORT.IDLE drives the idle level and traces it, with no guard on the enables. -/
def Obligations.PortIdleDrivesTheIdleLevel : Prop :=
  hasRow .portIdle 0x0900000000 .hc .interrupt ∧ ∀ s : State,
    (s.hostInited = false → exec .portIdle s = .refused .beforeInit) ∧
    (s.hostInited = true →
      exec .portIdle s = .next { s with
        portOut := s.cfg.idleLevel, trace := s.trace ++ [⟨.I, 0, s.cfg.idleLevel⟩]
        ihPos := s.ihPos + 1 })

/-- R104: lane by lane, the whole-word side gives the written bit and the set side gives the old bit or
the written bit. -/
def Obligations.PortSidesActLaneByLane : Prop :=
  ∀ (old w : Word) (i : Nat), i < 16 →
    (wholeSide old w).getLsbD i = w.getLsbD i ∧
    (setSide old w).getLsbD i = (old.getLsbD i || w.getLsbD i)

/-- R112: DONE.ACK clears `SIG.DONE` and touches nothing else but the handler's position. -/
def Obligations.DoneAckLowersTheSignal : Prop :=
  hasRow .doneAck 0x0800000000 .hc .interrupt ∧ ∀ s : State,
    (s.hostInited = false → exec .doneAck s = .refused .beforeInit) ∧
    (s.hostInited = true → exec .doneAck s = .next { s with sigDone := false, ihPos := s.ihPos + 1 })

/-! ## Host contract (45_transfer_gate.md) -/

/-- R120, R23: INIT, once, with `GATE.CTS` a drawn value not above `NOW`. Of the model's own fields the mark
`dchArmed` falls (log entry 6), the races are forgotten (log entry 7), the draw is counted (log entry 8) and
the foreground goes on; `DCH.SRC`, unspecified after INIT, keeps its bits (log entry 6). -/
def Obligations.InitSetsTheInitialState : Prop :=
  hasRow .init 0x0100000000 .hc .foreground ∧ ∀ s : State,
    (s.hostInited = true → exec .init s = .refused .initTwice) ∧
    (s.hostInited = false → ∃ cts, cts ≤ s.now ∧
      exec .init s = .next { s with
        ecgRun := true, ecgNext := .A, latA := false, latB := false
        dchEn := false, dchIdx := 0, dchArmed := false, cchEn := false, cchIdx := 0
        sigDone := false, portOut := s.cfg.idleLevel, trace := [⟨.I, 0, s.cfg.idleLevel⟩]
        gateActive := false, gateCts := cts, hostInh := false, hostInited := true
        raced := [], draws := s.draws + 1, fgPos := s.fgPos + 1 })

/-- R121: GATE.WAITIDLE passes when the Active flag is clear and spins, writing nothing, while it is set (log
entry 5). -/
def Obligations.GateWaitIdleTestsTheActiveFlag : Prop :=
  hasRow .gateWaitIdle 0x2000000000 .sw .foreground ∧ ∀ s : State,
    (s.hostInited = false → exec .gateWaitIdle s = .refused .beforeInit) ∧
    (s.hostInited = true → s.gateActive = false →
      exec .gateWaitIdle s = .next { s with fgPos := s.fgPos + 1 }) ∧
    (s.hostInited = true → s.gateActive = true → exec .gateWaitIdle s = .next s)

/-- R122: GATE.SETACTIVE raises the Active flag; the phase is then Active. -/
def Obligations.GateSetActiveRaisesTheFlag : Prop :=
  hasRow .gateSetActive 0x2100000000 .sw .foreground ∧ ∀ s : State,
    (s.hostInited = false → exec .gateSetActive s = .refused .beforeInit) ∧
    (s.hostInited = true →
      exec .gateSetActive s = .next { s with gateActive := true, fgPos := s.fgPos + 1 } ∧
      { s with gateActive := true, fgPos := s.fgPos + 1 }.phase = .active)

/-- R124: BUF.SCRUB, its refusals; with `SKIPCLR` it reads and writes nothing; without it every word of
the buffer loses its clock bits and keeps the others, every byte outside the buffer reads as before, and
nothing else changes but the foreground's position and, while the DataChannel is enabled, the recorded races,
which gain the old value of every word (log entry 7). A second scrub of the same buffer changes no memory: not
only every read, the memory as data is the same (R124 (c)). -/
def Obligations.BufScrubClearsTheClockBits : Prop :=
  (∀ (s : State) (buf : Addr),
    hasRow (.bufScrub buf) ((0x22 : BitVec 8) ++ buf) .sw .foreground ∧
    (s.hostInited = false → exec (.bufScrub buf) s = .refused .beforeInit) ∧
    (s.hostInited = true → (buf.toNat % 2 ≠ 0 ∨ 2 ^ s.cfg.aw < buf.toNat + s.cfg.bufsize) →
      exec (.bufScrub buf) s = .refused .badBuffer) ∧
    (s.hostInited = true → buf.toNat % 2 = 0 → buf.toNat + s.cfg.bufsize ≤ 2 ^ s.cfg.aw →
      s.cfg.skipclr = true → exec (.bufScrub buf) s = .next { s with fgPos := s.fgPos + 1 }) ∧
    (s.hostInited = true → buf.toNat % 2 = 0 → buf.toNat + s.cfg.bufsize ≤ 2 ^ s.cfg.aw →
      s.cfg.skipclr = false → s.mem.wf →
      ∃ t, exec (.bufScrub buf) s = .next t ∧
        (∀ k, k < s.cfg.n →
          t.readWord (buf.toNat + 2 * k) = s.readWord (buf.toNat + 2 * k) &&& ~~~s.cfg.clkmask) ∧
        (∀ x, x < buf.toNat ∨ buf.toNat + 2 * s.cfg.n ≤ x →
          t.mem.readByte x = s.mem.readByte x) ∧
        t.mem.wf ∧
        t.raced =
          s.racedAfter ((List.range s.cfg.n).map (fun k => buf.toNat + 2 * k)).reverse ∧
        t = { s with mem := t.mem, raced := t.raced, fgPos := s.fgPos + 1 })) ∧
  (∀ (s t u : State) (buf : Addr), s.mem.wf → exec (.bufScrub buf) s = .next t →
    exec (.bufScrub buf) t = .next u → u.mem = t.mem)

/-- R125: GATE.WAITLATCH passes when the Active flag is clear and `T_LATCH` has passed since `GATE.CTS`,
and spins, writing nothing, until then (log entry 5). -/
def Obligations.GateWaitLatchWaitsOutTheInterval : Prop :=
  hasRow .gateWaitLatch 0x2300000000 .sw .foreground ∧ ∀ s : State,
    (s.hostInited = false → exec .gateWaitLatch s = .refused .beforeInit) ∧
    (s.hostInited = true → s.gateActive = false → s.cfg.tLatch ≤ s.now - s.gateCts →
      exec .gateWaitLatch s = .next { s with fgPos := s.fgPos + 1 }) ∧
    (s.hostInited = true → (s.gateActive = true ∨ s.now - s.gateCts < s.cfg.tLatch) →
      exec .gateWaitLatch s = .next s)

/-- R126: GATE.BUSY returns true if Active or if less than `T_LATCH` has passed since `GATE.CTS`, and
writes nothing of the machine. The list of results is the model's own field (log entry 17). -/
def Obligations.GateBusyReturnsItsResult : Prop :=
  hasRow .gateBusy 0x2400000000 .sw .foreground ∧ ∀ s : State,
    (s.hostInited = false → exec .gateBusy s = .refused .beforeInit) ∧
    (s.hostInited = true → (s.gateActive = true ∨ s.now - s.gateCts < s.cfg.tLatch) →
      exec .gateBusy s = .next { s with
        busyResults := s.busyResults ++ [true], fgPos := s.fgPos + 1 }) ∧
    (s.hostInited = true → s.gateActive = false → s.cfg.tLatch ≤ s.now - s.gateCts →
      exec .gateBusy s = .next { s with
        busyResults := s.busyResults ++ [false], fgPos := s.fgPos + 1 })

/-- R130: TS.RECORD records `NOW`, and after INIT no other operation writes `GATE.CTS`. -/
def Obligations.TsRecordIsTheOnlyTimestampWriter : Prop :=
  hasRow .tsRecord 0x2500000000 .sw .interrupt ∧ (∀ s : State,
    (s.hostInited = false → exec .tsRecord s = .refused .beforeInit) ∧
    (s.hostInited = true →
      exec .tsRecord s = .next { s with gateCts := s.now, ihPos := s.ihPos + 1 })) ∧
  (∀ (i : Instr) (s t : State), s.hostInited = true → exec i s = .next t → i ≠ .tsRecord →
    t.gateCts = s.gateCts)

/-- R132: GATE.CLRACTIVE lowers the Active flag; right after TS.RECORD the phase is then Latching, for as
long as `T_LATCH` is not 0. -/
def Obligations.GateClrActiveLowersTheFlag : Prop :=
  hasRow .gateClrActive 0x2600000000 .sw .interrupt ∧ ∀ s : State,
    (s.hostInited = false → exec .gateClrActive s = .refused .beforeInit) ∧
    (s.hostInited = true →
      exec .gateClrActive s = .next { s with gateActive := false, ihPos := s.ihPos + 1 } ∧
      (s.gateCts = s.now → 0 < s.cfg.tLatch →
        { s with gateActive := false, ihPos := s.ihPos + 1 }.phase = .latching))

/-- R22, R125, R126: the phase is Idle exactly when GATE.WAITLATCH passes and GATE.BUSY returns false;
GATE.SETACTIVE makes it Active, and GATE.CLRACTIVE right after TS.RECORD makes it Latching for as long as
`T_LATCH` is not 0. -/
def Obligations.PhaseFollowsTheGate : Prop :=
  ∀ s : State, s.hostInited = true →
    (s.phase = .idle → exec .gateWaitLatch s = .next { s with fgPos := s.fgPos + 1 } ∧
      exec .gateBusy s = .next { s with
        busyResults := s.busyResults ++ [false], fgPos := s.fgPos + 1 }) ∧
    (s.phase ≠ .idle → exec .gateWaitLatch s = .next s ∧
      exec .gateBusy s = .next { s with
        busyResults := s.busyResults ++ [true], fgPos := s.fgPos + 1 }) ∧
    (∃ t, exec .gateSetActive s = .next t ∧ t.phase = .active) ∧
    (∃ t u, exec .tsRecord s = .next t ∧ exec .gateClrActive t = .next u ∧
      (0 < s.cfg.tLatch → u.phase = .latching))

/-! ## The completion interrupt (60_exceptions.md) -/

/-- R146: taking the completion interrupt sets `HOST.INH` and nothing else of the CORE or of the host;
the foreground keeps its position, the handler goes on to its next step. Where the guard is false there is no
entry, the state staying as it is (log entry 5); before INIT the operation is refused (R171). -/
def Obligations.IrqEnterTakesTheInterrupt : Prop :=
  hasRow .irqEnter 0x2700000000 .sw .interrupt ∧ ∀ s : State,
    (s.hostInited = false → exec .irqEnter s = .refused .beforeInit) ∧
    (s.hostInited = true → s.sigDone = true → s.hostInh = false →
      exec .irqEnter s = .next { s with hostInh := true, ihPos := s.ihPos + 1 }) ∧
    (s.hostInited = true → (s.sigDone = false ∨ s.hostInh = true) → exec .irqEnter s = .next s)

/-- R148, R171: the return clears `HOST.INH` and restores nothing; the handler stands at its first step
again (log entry 10). It is held while the handler has a step left before it or is not running (log entry
5). -/
def Obligations.IrqExitReturnsFromTheInterrupt : Prop :=
  hasRow .irqExit 0x2800000000 .sw .interrupt ∧ ∀ s : State,
    (s.hostInited = false → exec .irqExit s = .refused .beforeInit) ∧
    (s.hostInited = true → s.hostInh = true → s.ihPos + 1 = s.ihProg.length →
      exec .irqExit s = .next { s with hostInh := false, ihPos := 0 }) ∧
    (s.hostInited = true → (s.hostInh = false ∨ s.ihPos + 1 ≠ s.ihProg.length) →
      exec .irqExit s = .next s)

/-- R147: once `SIG.DONE` is up, six turns of the interrupt context run the handler from entry to return:
the signal is down, the port idle, the timestamp recorded, the Active flag clear, and nothing else has
changed. -/
def Obligations.HandlerRunsItsFourSteps : Prop :=
  ∀ (s : State) (ts : List Turn), s.cfg.wf = true → s.programsOk = true → s.hostInited = true →
    s.sigDone = true → s.hostInh = false → s.ihProg = assemble (Macro.expand .handler) →
    s.ihPos = 0 → s.turns = List.replicate 6 (.agent .interrupt) ++ ts →
    Runs 6 s { s with
      sigDone := false, portOut := s.cfg.idleLevel
      trace := s.trace ++ [⟨.I, 0, s.cfg.idleLevel⟩]
      gateCts := s.now, gateActive := false, turns := ts }

/-- R149, U20, program P6: a handler that leaves out DONE.ACK returns with `SIG.DONE` still up, so its
entry is enabled again, and XFER.GO is refused. -/
def Obligations.HandlerWithoutAckIsEnteredAgain : Prop :=
  ∀ (s : State) (ts : List Turn), s.cfg.wf = true → s.programsOk = true → s.hostInited = true →
    s.sigDone = true → s.hostInh = false → s.dchEn = false → s.cchEn = false →
    s.ihProg = assemble [.irqEnter, .portIdle, .tsRecord, .gateClrActive, .irqExit] →
    s.ihPos = 0 → s.turns = List.replicate 5 (.agent .interrupt) ++ ts →
    ∃ t, Runs 5 s t ∧ t.hostInh = false ∧ t.gateActive = false ∧ t.sigDone = true ∧
      exec .irqEnter t = .next { t with hostInh := true, ihPos := 1 } ∧
      exec .xferGo t = .refused .completionNotAcknowledged

/-! ## Whole-machine rules -/

/-- R171, R59 (d), D1: before INIT every operation of class HC or SW but INIT is refused, and no event of
the hardware has a step, whatever `ECG.RUN` holds (log entry 22), the state staying as it is (log entry 5). -/
def Obligations.NothingRunsBeforeInit : Prop :=
  ∀ (i : Instr) (s : State), s.hostInited = false →
    (i.opClass ≠ .ev → i ≠ .init → exec i s = .refused .beforeInit) ∧
    (i.opClass = .ev → exec i s = .next s)

/-- R12: no step writes the configuration; the installed programs stay as they are (R54, R173). -/
def Obligations.ConfigurationNeverChanges : Prop :=
  ∀ s t : State, step s = .next t →
    t.cfg = s.cfg ∧ t.fgProg = s.fgProg ∧ t.ihProg = s.ihProg

/-- R32: no part of the CORE writes memory: it changes only by BUF.SCRUB with `SKIPCLR` false or by an
act of the caller. -/
def Obligations.OnlyTheHostWritesMemory : Prop :=
  ∀ s t : State, step s = .next t → t.mem ≠ s.mem →
    (∃ buf, s.Performs (.bufScrub buf) ∧ s.cfg.skipclr = false) ∨
    (∃ base ws, s.nextTurn = .callerOwn base ws) ∨ (∃ a w, s.nextTurn = .callerStore a w) ∨
    (∃ a b, s.nextTurn = .callerStoreByte a b)

/-- R13, R14: who writes the latches and the generator's state, and to what. -/
def Obligations.LatchAndGeneratorWriters : Prop :=
  ∀ s t : State, step s = .next t →
    (t.latA ≠ s.latA → (t.latA = true ∧ s.Performs .edgeA) ∨ (t.latA = false ∧
      (s.Performs .dchXfer ∨ s.Performs .latchClr ∨ s.Performs .xferGo ∨ s.Performs .init))) ∧
    (t.latB ≠ s.latB → (t.latB = true ∧ s.Performs .edgeB) ∨ (t.latB = false ∧
      (s.Performs .cchXfer ∨ s.Performs .latchClr ∨ s.Performs .xferGo ∨ s.Performs .init))) ∧
    (t.ecgRun ≠ s.ecgRun → t.ecgRun = true ∧ s.Performs .init) ∧
    (t.ecgNext ≠ s.ecgNext → (t.ecgNext = .B ∧ s.Performs .edgeA) ∨ (t.ecgNext = .A ∧
      (s.Performs .edgeB ∨ s.Performs .init)))

/-- R15, R16, R85: who writes the channels' state; in particular only the `N`-th service of a channel and
INIT write its enable to 0. -/
def Obligations.ChannelStateWriters : Prop :=
  ∀ s t : State, step s = .next t →
    (t.dchEn ≠ s.dchEn → (t.dchEn = true ∧ (s.Performs .dchStart ∨ s.Performs .xferGo)) ∨
      (t.dchEn = false ∧ ((s.Performs .dchXfer ∧ s.dchIdx + 1 = s.cfg.n) ∨ s.Performs .init))) ∧
    (t.dchSrc ≠ s.dchSrc → s.Performs (.dchArm t.dchSrc)) ∧
    (t.dchIdx ≠ s.dchIdx → (s.Performs .dchXfer ∧ t.dchIdx = (s.dchIdx + 1) % s.cfg.n) ∨
      (t.dchIdx = 0 ∧ ((∃ src, s.Performs (.dchArm src)) ∨ s.Performs .init))) ∧
    (t.cchEn ≠ s.cchEn → (t.cchEn = true ∧ (s.Performs .cchStart ∨ s.Performs .xferGo)) ∨
      (t.cchEn = false ∧ ((s.Performs .cchXfer ∧ s.cchIdx + 1 = s.cfg.n) ∨ s.Performs .init))) ∧
    (t.cchIdx ≠ s.cchIdx → (s.Performs .cchXfer ∧ t.cchIdx = (s.cchIdx + 1) % s.cfg.n) ∨
      (t.cchIdx = 0 ∧ s.Performs .init))

/-- R17, R20, R100: only DCH.XFER, CCH.XFER, PORT.IDLE and INIT write the port or its trace; each adds
one entry whose value is the port's level after it, INIT discarding what the trace held. -/
def Obligations.PortWritersAreTraced : Prop :=
  ∀ s t : State, step s = .next t →
    (t.portOut = s.portOut ∧ t.trace = s.trace) ∨
    ((s.Performs .dchXfer ∨ s.Performs .cchXfer ∨ s.Performs .portIdle) ∧
      ∃ e, t.trace = s.trace ++ [e] ∧ e.value = t.portOut) ∨
    (s.Performs .init ∧ t.trace = [⟨.I, 0, t.portOut⟩])

/-- R18, R111, R113: `SIG.DONE` is raised only by the ClockChannel's `N`-th service, in the step that
disables the channel, and lowered only by DONE.ACK and INIT. -/
def Obligations.CompletionSignalIsALevel : Prop :=
  ∀ s t : State, step s = .next t →
    (s.sigDone = false → t.sigDone = true →
      s.Performs .cchXfer ∧ s.cchIdx + 1 = s.cfg.n ∧ s.cchEn = true ∧ t.cchEn = false) ∧
    (s.sigDone = true → t.sigDone = false → s.Performs .doneAck ∨ s.Performs .init) ∧
    (s.Performs .cchXfer → s.hostInited = true → s.cchEn = true → s.latB = true →
      s.cchIdx + 1 = s.cfg.n → t.sigDone = true)

/-- R21: who writes the host's state, and to what. -/
def Obligations.HostStateWriters : Prop :=
  ∀ s t : State, step s = .next t →
    (t.hostInited ≠ s.hostInited → t.hostInited = true ∧ s.Performs .init) ∧
    (t.gateActive ≠ s.gateActive → (t.gateActive = true ∧ s.Performs .gateSetActive) ∨
      (t.gateActive = false ∧ (s.Performs .gateClrActive ∨ s.Performs .init))) ∧
    (t.gateCts ≠ s.gateCts → (s.Performs .tsRecord ∧ t.gateCts = s.now) ∨ s.Performs .init) ∧
    (t.hostInh ≠ s.hostInh → (t.hostInh = true ∧ s.Performs .irqEnter) ∨
      (t.hostInh = false ∧ (s.Performs .irqExit ∨ s.Performs .init)))

/-! ## Invariants (10_state.md R24) -/

/-- R24 (a), (b), R131: every step keeps the canonical form of memory, the cursors' bounds, the rest
value of a disabled channel's cursor, and a timestamp not above `NOW`. -/
def Obligations.EveryStepKeepsTheStateSound : Prop :=
  ∀ s t : State, s.Sound → step s = .next t → t.Sound

/-- R24 (c), (d), R39: with `START_ALIGNED = true` every step keeps the channels in lock step, keeps a
pending completion and a running handler apart from an enabled channel, and keeps the whole trace in the
order `D_0, C_0, D_1, C_1, ..., D_(N-1), C_(N-1)`, each `C_k` on the level of its `D_k`. -/
def Obligations.EveryStepKeepsTheTransferAligned : Prop :=
  ∀ s t : State, s.Aligned → step s = .next t → t.Aligned

/-- R23, R24: the invariants hold at power-on for every valid configuration, and R23's own power-on
values are the model's. (The other power-on values are the model's choice, log entry 1; the claim holds
for the invariants whatever the fields they read before INIT.) -/
def Obligations.PowerOnIsSoundAndAligned : Prop :=
  (∀ c : Config, configValid c = true →
    (State.powerOn c).Sound ∧ (c.startAligned = true → (State.powerOn c).Aligned) ∧
    (State.powerOn c).hostInited = false ∧ (State.powerOn c).hostInh = false ∧
    (State.powerOn c).trace = []) ∧
  State.reset.Sound ∧ State.reset.Aligned

/-! ## Transfers -/

/-- R84, R98, R107: from the state an aligned XFER.GO leaves, with the bound buffer in declared memory,
the turns of `N` ticks run the whole transfer: the trace gains `D_k, C_k` for every word of the buffer in
order, the port ends at the last word with the clock bits set, both channels are disabled with their
cursors at 0, `SIG.DONE` is up, and nothing else has changed. -/
def Obligations.TransferSendsEveryWord : Prop :=
  ∀ (s : State) (ts : List Turn), s.cfg.wf = true → s.programsOk = true → s.hostInited = true →
    s.ecgRun = true → s.ecgNext = .A → s.latA = false → s.latB = false →
    s.dchEn = true → s.cchEn = true → s.dchIdx = 0 → s.cchIdx = 0 → s.dchArmed = true →
    s.ownsBuffer s.dchSrc.toNat = true → s.raced = [] →
    s.turns = ticksTurns s.cfg.n ++ ts →
    ∃ last, (s.bufferWords s.dchSrc.toNat).getLast? = some last ∧
      Runs (4 * s.cfg.n) s { s with
        portOut := last ||| s.cfg.clkmask
        trace := s.trace ++ tickWrites s.cfg.clkmask 0 (s.bufferWords s.dchSrc.toNat)
        dchEn := false, cchEn := false, sigDone := true, turns := ts }

/-- R127, R133: a `show` of an admitted buffer in declared memory, from a state with no transfer in
flight and the generator before an edge A, returns: with the foreground's five steps, the ticks, the
handler, the latch interval and the last wait as its turns, the run ends past the `show` with every
postcondition of R127, and `TRACE` is longer by the `2N + 1` entries of R107. -/
def Obligations.ShowReturnsIdle : Prop :=
  ∀ (s : State) (buf : Addr) (before after : List OpWord) (ts : List Turn),
    s.cfg.wf = true → s.programsOk = true → s.hostInited = true → s.mem.wf →
    s.ecgRun = true → s.ecgNext = .A → s.dchEn = false → s.cchEn = false →
    s.dchIdx = 0 → s.cchIdx = 0 → s.sigDone = false → s.gateActive = false → s.hostInh = false →
    s.raced = [] → s.ihProg = assemble (Macro.expand .handler) → s.ihPos = 0 →
    s.fgProg = before ++ assemble (Macro.expand (.showBuf buf)) ++ after → s.fgPos = before.length →
    buf.toNat % 2 = 0 → buf.toNat + s.cfg.bufsize ≤ 2 ^ s.cfg.aw → s.ownsBuffer buf.toNat = true →
    s.turns = List.replicate 5 (.agent .foreground) ++ ticksTurns s.cfg.n ++
      List.replicate 6 (.agent .interrupt) ++ [.time s.cfg.tLatch, .agent .foreground] ++ ts →
    ∃ t, Runs (5 + 4 * s.cfg.n + 6 + 2) s t ∧
      t.dchEn = false ∧ t.cchEn = false ∧ t.dchIdx = 0 ∧ t.cchIdx = 0 ∧ t.sigDone = false ∧
      t.portOut = s.cfg.idleLevel ∧ t.gateActive = false ∧ s.cfg.tLatch ≤ t.now - t.gateCts ∧
      t.phase = .idle ∧ t.dchSrc = buf ∧ t.fgPos = s.fgPos + 6 ∧ t.turns = ts ∧
      t.trace = s.trace ++ transferTrace s.cfg (t.bufferWords buf.toNat) ∧
      (s.cfg.skipclr = true → t.mem = s.mem) ∧
      (s.cfg.skipclr = false → t.bufferWords buf.toNat =
        (s.bufferWords buf.toNat).map (fun w => w &&& ~~~s.cfg.clkmask))

/-- R24 (e), with `START_ALIGNED = true` (log entry 14): if the host issues operations only through INIT,
`show`, `busy` and the handler, every step keeps the host's protocol, in which a clear Active flag with the
handler not running means both channels disabled and no completion pending. The protocol holds at power-on, so
the same holds of every state a run reaches, whatever the turns. -/
def Obligations.InactiveGateMeansQuietHardware : Prop :=
  (∀ s t : State, s.HostProtocol → step s = .next t → t.HostProtocol) ∧
  (∀ s : State, s.HostProtocol → s.hostInited = true → s.gateActive = false → s.hostInh = false →
    s.dchEn = false ∧ s.cchEn = false ∧ s.sigDone = false) ∧
  (∀ (c : Config) (memLines : List (Nat × List Word)) (calls : List HostCall) (turns : List Turn),
    c.startAligned = true →
    (configValid c = true → (State.hostStart c memLines calls turns).HostProtocol) ∧
    ∀ (k : Nat) (s : State), Runs k (State.hostStart c memLines calls turns) s → s.hostInited = true →
      s.gateActive = false → s.hostInh = false →
      s.dchEn = false ∧ s.cchEn = false ∧ s.sigDone = false)

/-- R77, R95, R153, R133, R127: what fairness brings about, with `START_ALIGNED = true`. (a) A transfer under
way on a buffer that stays declared (R174) completes. (b) A foreground that stands at an admitted XFER.GO takes
it. (c) A foreground that stands at GATE.WAITLATCH, with the Active flag clear, no transfer and no completion
pending, comes to a moment where the wait may pass. (d) If the host's own operations make progress too (log
entry 25), a `show` that meets the preconditions of R127 returns, with the postconditions of R127 but the one on
the buffer's contents; its trace is longer by `N` pairs `D_k, C_k` and the idle write. What the buffer holds,
and which words are sent, is left open here, since the caller may store meanwhile (ShowReturnsIdle says it for
a caller that does not). -/
def Obligations.FairExecutionsMakeProgress : Prop :=
  ∀ (ρ : Nat → State) (τ : Nat → Turn) (n : Nat), IsExecution ρ τ → Fair ρ τ →
    (ρ n).Aligned → (ρ n).hostInited = true → (ρ n).ecgRun = true →
    ((ρ n).cchEn = true → (ρ n).dchArmed = true →
      (∀ m, n ≤ m → (ρ m).ownsBuffer (ρ m).dchSrc.toNat = true) →
      ∃ m, n ≤ m ∧ (ρ m).dchEn = false ∧ (ρ m).cchEn = false ∧ (ρ m).sigDone = true) ∧
    ((ρ n).cchEn = false → (ρ n).sigDone = false → (ρ n).hostInh = false →
      (ρ n).nextWord .foreground = some (encode .xferGo) →
      ∃ m, n ≤ m ∧ Takes ρ τ .xferGo m) ∧
    ((ρ n).cchEn = false → (ρ n).sigDone = false → (ρ n).hostInh = false → (ρ n).gateActive = false →
      (ρ n).nextWord .foreground = some (encode .gateWaitLatch) →
      ∃ m, n ≤ m ∧ (ρ m).Enabled .gateWaitLatch) ∧
    (HostProgress ρ τ → ∀ (buf : Addr) (before after : List OpWord),
      (ρ n).cchEn = false → (ρ n).sigDone = false → (ρ n).hostInh = false → (ρ n).gateActive = false →
      (ρ n).ihProg = assemble (Macro.expand .handler) → (ρ n).ihPos = 0 →
      (ρ n).fgProg = before ++ assemble (Macro.expand (.showBuf buf)) ++ after →
      (ρ n).fgPos = before.length → buf.toNat % 2 = 0 →
      buf.toNat + (ρ n).cfg.bufsize ≤ 2 ^ (ρ n).cfg.aw →
      (∀ m, n ≤ m → (ρ m).ownsBuffer buf.toNat = true) →
      ∃ m, n ≤ m ∧ (ρ m).fgPos = before.length + 6 ∧
        (ρ m).dchEn = false ∧ (ρ m).cchEn = false ∧ (ρ m).dchIdx = 0 ∧ (ρ m).cchIdx = 0 ∧
        (ρ m).sigDone = false ∧ (ρ m).hostInh = false ∧ (ρ m).gateActive = false ∧
        (ρ m).portOut = (ρ m).cfg.idleLevel ∧ (ρ m).cfg.tLatch ≤ (ρ m).now - (ρ m).gateCts ∧
        (ρ m).phase = .idle ∧ (ρ m).dchSrc = buf ∧
        ∃ ws : List Word, ws.length = (ρ m).cfg.n ∧
          (ρ m).trace = (ρ n).trace ++ transferTrace (ρ m).cfg ws)

/-- R105, R106, R98: the strips' decode of a transfer whose words all have the clock bit clear, the clock
line being low before it: `N` clock rises, and line `i` receives bit `i` of each word in order. -/
def Obligations.CleanTransferIsReceived : Prop :=
  ∀ (c : Config) (before : Word) (ws : List Word), configValid c = true →
    before.getLsbD (clockLine c) = false → (∀ w ∈ ws, w.getLsbD (clockLine c) = false) →
    (clockRises (clockLine c) before (transferTrace c ws)).length = ws.length ∧
    ∀ i, i < 16 → i ≠ clockLine c →
      lineBits (clockLine c) before (transferTrace c ws) i = ws.map (fun w => w.getLsbD i)

/-- R180, program P3: a word with the clock bit set, sent after a pulse that left the clock line high, makes
no clock rise in its tick and is never sampled; sent first, on a low clock line, it makes the rise at its
own data write. -/
def Obligations.DirtyWordMergesPulses : Prop :=
  ∀ (c : Config) (before w : Word) (k : Nat) (rest : List PortWrite), configValid c = true →
    w.getLsbD (clockLine c) = true →
    (before.getLsbD (clockLine c) = true →
      clockRises (clockLine c) before (tickWrites c.clkmask k [w] ++ rest) =
        clockRises (clockLine c) (w ||| c.clkmask) rest) ∧
    (before.getLsbD (clockLine c) = false →
      clockRises (clockLine c) before (tickWrites c.clkmask k [w] ++ rest) =
        w :: clockRises (clockLine c) (w ||| c.clkmask) rest)

/-! ## The caller's memory (20_memory.md) -/

/-- R32, R34, R35: a store of the caller inside the address space, of a 16-bit word or of one byte, is read
back; every other byte reads as before; nothing else changes but, while the DataChannel is enabled, the
recorded races, which gain the old value of every aligned word touched (log entry 7). Outside the address
space the act is refused (log entry 13). -/
def Obligations.CallerStoreIsReadBack : Prop :=
  ∀ (s : State) (a : Nat) (ts : List Turn), s.cfg.wf = true → s.programsOk = true → s.mem.wf →
    (∀ w, s.turns = .callerStore a w :: ts → a + 2 ≤ 2 ^ s.cfg.aw →
      ∃ t, step s = .next t ∧ t.readWord a = w ∧ t.mem.wf ∧
        (∀ x, x ≠ a → x ≠ a + 1 → t.mem.readByte x = s.mem.readByte x) ∧
        t = { s with mem := t.mem, raced := s.racedAfter (wordsTouched a), turns := ts }) ∧
    (∀ w, s.turns = .callerStore a w :: ts → 2 ^ s.cfg.aw < a + 2 →
      step s = .refused .noSuchAddress) ∧
    (∀ b, s.turns = .callerStoreByte a b :: ts → a < 2 ^ s.cfg.aw →
      ∃ t, step s = .next t ∧ t.mem.readByte a = b ∧ t.mem.wf ∧
        (∀ x, x ≠ a → t.mem.readByte x = s.mem.readByte x) ∧
        t = { s with mem := t.mem, raced := s.racedAfter [a - a % 2], turns := ts }) ∧
    (∀ b, s.turns = .callerStoreByte a b :: ts → 2 ^ s.cfg.aw ≤ a → step s = .refused .noSuchAddress)

/-- R35, U1: memory the caller declares is its own, with the words given, every byte outside reads as before,
and nothing else changes but, while the DataChannel is enabled, the recorded races, as the stores of the words
leave them (log entry 7); a declaration past `2 ^ AW` is refused (log entry 13). Memory the caller gives up is
no longer its own, the rest of its memory still is, and nothing else changes. -/
def Obligations.CallerOwnsWhatItDeclares : Prop :=
  (∀ (s : State) (base : Nat) (ws : List Word) (ts : List Turn), s.cfg.wf = true →
    s.programsOk = true → s.turns = .callerOwn base ws :: ts → s.mem.wf →
    (base + 2 * ws.length ≤ 2 ^ s.cfg.aw →
      ∃ t, step s = .next t ∧ (∀ k (h : k < ws.length), t.readWord (base + 2 * k) = ws[k]) ∧
        (∀ x, x < base ∨ base + 2 * ws.length ≤ x → t.mem.readByte x = s.mem.readByte x) ∧
        t.mem.wf ∧
        (∀ x, t.owns x = (s.owns x || decide (base ≤ x ∧ x < base + 2 * ws.length))) ∧
        (s.dchEn = false → t.raced = s.raced) ∧
        t = { s with
          mem := t.mem, owned := t.owned, raced := (s.storeWords base ws).raced, turns := ts }) ∧
    (2 ^ s.cfg.aw < base + 2 * ws.length → step s = .refused .noSuchAddress)) ∧
  (∀ (s : State) (base size : Nat) (ts : List Turn), s.cfg.wf = true → s.programsOk = true →
    s.turns = .callerFree base size :: ts →
    ∃ t, step s = .next t ∧ (∀ x, t.owns x = (s.owns x && !decide (base ≤ x ∧ x < base + size))) ∧
      t = { s with owned := t.owned, turns := ts })
end

