-- ==== Sys2Proof/Laws/Memory.lean ====
section
/-! SUPPORT. The laws of the frame memory: a read after a write, and the canonical form kept. -/

namespace Sys2Proof.Machine

theorem Memory.wf_tail {p : Host.Cell} {m : Memory} (h : Memory.wf (p :: m)) :
    m.wf ∧ p.2 ≠ unlistedByte ∧ ∀ q ∈ m, p.1 < q.1 :=
  ⟨⟨(List.pairwise_cons.1 h.1).2, fun q hq => h.2 q (by simp [hq])⟩, h.2 p (by simp),
    (List.pairwise_cons.1 h.1).1⟩

theorem Memory.wf_cons {p : Host.Cell} {m : Memory} (hm : m.wf) (hp : p.2 ≠ unlistedByte)
    (hk : ∀ q ∈ m, p.1 < q.1) : Memory.wf (p :: m) := by
  refine ⟨List.pairwise_cons.2 ⟨hk, hm.1⟩, fun q hq => ?_⟩
  rcases List.mem_cons.1 hq with rfl | hq
  · exact hp
  · exact hm.2 q hq

/-- Below every listed address a memory reads as unlisted. -/
theorem Memory.readByte_below (m : Memory) (y : Nat) (h : ∀ q ∈ m, y < q.1) :
    m.readByte y = unlistedByte := by
  induction m with
  | nil => rfl
  | cons q m ih =>
    have := h q (by simp)
    rw [Memory.readByte, if_neg (by omega)]
    exact ih fun r hr => h r (by simp [hr])

theorem Memory.readByte_writeByte (m : Memory) (a x : Nat) (b : Byte) (h : m.wf) :
    (m.writeByte a b).readByte x = if x = a then b else m.readByte x := by
  induction m with
  | nil =>
    by_cases hb : b = unlistedByte
    · simp [Memory.writeByte, Memory.readByte, hb]
    · simp [Memory.writeByte, Memory.readByte, hb]
  | cons p m ih =>
    obtain ⟨k, c⟩ := p
    obtain ⟨hm, -, hk⟩ := Memory.wf_tail h
    have low : ∀ y ≤ k, Memory.readByte m y = unlistedByte := fun y hy =>
      Memory.readByte_below m y fun q hq => Nat.lt_of_le_of_lt hy (hk q hq)
    by_cases h1 : a < k
    · have hak : ¬ a = k := by omega
      by_cases hb : b = unlistedByte
      · by_cases hx : x = a
        · subst hx
          simp [Memory.writeByte, Memory.readByte, h1, hb, hak, low x (by omega)]
        · simp [Memory.writeByte, h1, hb, hx]
      · simp [Memory.writeByte, Memory.readByte, h1, hb]
    · by_cases h2 : a = k
      · subst h2
        by_cases hb : b = unlistedByte
        · by_cases hx : x = a
          · subst hx; simp [Memory.writeByte, hb, low x (Nat.le_refl _)]
          · simp [Memory.writeByte, Memory.readByte, hb, hx]
        · by_cases hx : x = a <;> simp [Memory.writeByte, Memory.readByte, hb, hx]
      · simp only [Memory.writeByte, if_neg h1, if_neg h2, Memory.readByte, ih hm]
        by_cases hx : x = k
        · subst hx
          have hxa : ¬ x = a := fun h => h2 h.symm
          simp [hxa]
        · simp [hx]

theorem Memory.mem_writeByte (m : Memory) (a : Nat) (b : Byte) :
    ∀ q ∈ m.writeByte a b, q = (a, b) ∧ b ≠ unlistedByte ∨ q ∈ m := by
  induction m with
  | nil =>
    intro q hq
    by_cases hb : b = unlistedByte
    · simp [Memory.writeByte, hb] at hq
    · simp only [Memory.writeByte, if_neg hb, List.mem_singleton] at hq
      exact .inl ⟨hq, hb⟩
  | cons p m ih =>
    intro q hq
    by_cases hb : b = unlistedByte
    · by_cases h1 : a < p.1
      · exact .inr (by simpa [Memory.writeByte, hb, h1] using hq)
      · by_cases h2 : a = p.1
        · have : q ∈ m := by simpa [Memory.writeByte, hb, h1, h2] using hq
          exact .inr (by simp [this])
        · simp only [Memory.writeByte, if_neg h1, if_neg h2, List.mem_cons] at hq
          rcases hq with rfl | hq
          · simp
          · rcases ih q hq with h | h
            · exact .inl h
            · exact .inr (by simp [h])
    · by_cases h1 : a < p.1
      · simp only [Memory.writeByte, if_pos h1, if_neg hb, List.mem_cons] at hq
        rcases hq with rfl | rfl | hq
        · exact .inl ⟨rfl, hb⟩
        · simp
        · exact .inr (by simp [hq])
      · by_cases h2 : a = p.1
        · simp only [Memory.writeByte, if_neg h1, if_pos h2, if_neg hb, List.mem_cons] at hq
          rcases hq with rfl | hq
          · exact .inl ⟨rfl, hb⟩
          · exact .inr (by simp [hq])
        · simp only [Memory.writeByte, if_neg h1, if_neg h2, List.mem_cons] at hq
          rcases hq with rfl | hq
          · simp
          · rcases ih q hq with h | h
            · exact .inl h
            · exact .inr (by simp [h])

theorem Memory.writeByte_wf (m : Memory) (a : Nat) (b : Byte) (h : m.wf) :
    (m.writeByte a b).wf := by
  induction m with
  | nil =>
    by_cases hb : b = unlistedByte
    · simpa [Memory.writeByte, hb] using h
    · simp [Memory.writeByte, hb, Memory.wf]
  | cons p m ih =>
    obtain ⟨hm, hc, hk⟩ := Memory.wf_tail h
    by_cases h1 : a < p.1
    · by_cases hb : b = unlistedByte
      · simpa [Memory.writeByte, hb, h1] using h
      · simp only [Memory.writeByte, if_pos h1, if_neg hb]
        refine Memory.wf_cons h hb fun q hq => ?_
        rcases List.mem_cons.1 hq with rfl | hq
        · exact h1
        · exact Nat.lt_trans h1 (hk q hq)
    · by_cases h2 : a = p.1
      · by_cases hb : b = unlistedByte
        · simpa only [Memory.writeByte, if_neg h1, if_pos h2, if_pos hb] using hm
        · simp only [Memory.writeByte, if_neg h1, if_pos h2, if_neg hb]
          exact Memory.wf_cons hm hb fun q hq => h2 ▸ hk q hq
      · simp only [Memory.writeByte, if_neg h1, if_neg h2]
        refine Memory.wf_cons (ih hm) hc fun q hq => ?_
        rcases Memory.mem_writeByte m a b q hq with ⟨rfl, -⟩ | hq
        · show p.1 < a
          omega
        · exact hk q hq

theorem Memory.writeWord_wf (o : ByteOrder) (m : Memory) (a : Nat) (w : Word) (h : m.wf) :
    (m.writeWord o a w).wf := Memory.writeByte_wf _ _ _ (Memory.writeByte_wf _ _ _ h)

theorem Memory.readByte_writeWord (o : ByteOrder) (m : Memory) (a x : Nat) (w : Word) (h : m.wf) :
    (m.writeWord o a w).readByte x =
      if x = a then firstByte o w else if x = a + 1 then secondByte o w else m.readByte x := by
  rw [Memory.writeWord, Memory.readByte_writeByte _ _ _ _ (Memory.writeByte_wf _ _ _ h),
    Memory.readByte_writeByte _ _ _ _ h]
  by_cases h1 : x = a + 1
  · simp [h1]
  · simp [h1]

/-- Two canonical memories that read alike are the same memory. -/
theorem Memory.eq_of_readByte (m m' : Memory) (h : m.wf) (h' : m'.wf)
    (hr : ∀ x, m.readByte x = m'.readByte x) : m = m' := by
  induction m generalizing m' with
  | nil =>
    cases m' with
    | nil => rfl
    | cons q m' =>
      obtain ⟨-, hq, -⟩ := Memory.wf_tail h'
      have := hr q.1
      simp only [Memory.readByte, if_true] at this
      exact absurd this.symm hq
  | cons p m ih =>
    obtain ⟨hm, hp, hk⟩ := Memory.wf_tail h
    cases m' with
    | nil =>
      have := hr p.1
      simp only [Memory.readByte, if_true] at this
      exact absurd this hp
    | cons q m' =>
      obtain ⟨hm', hq, hk'⟩ := Memory.wf_tail h'
      have e1 := hr p.1
      have e2 := hr q.1
      simp only [Memory.readByte, if_true] at e1 e2
      have hpq : p.1 = q.1 := by
        by_contra hne
        rw [if_neg hne] at e1
        rw [if_neg (Ne.symm hne)] at e2
        rcases Nat.lt_or_gt_of_ne hne with hlt | hlt
        · exact hp (e1.trans (Memory.readByte_below m' p.1
            fun r hr => Nat.lt_trans hlt (hk' r hr)))
        · exact hq (e2.symm.trans (Memory.readByte_below m q.1
            fun r hr => Nat.lt_trans hlt (hk r hr)))
      rw [if_pos hpq] at e1
      have hpe : p = q := Prod.ext hpq e1
      subst hpe
      congr 1
      refine ih m' hm hm' fun x => ?_
      by_cases hx : x = p.1
      · subst hx
        rw [Memory.readByte_below m _ hk, Memory.readByte_below m' _ hk']
      · have := hr x
        simpa only [Memory.readByte, if_neg hx] using this

/-- The two bytes of a word joined again are the word (R34). -/
theorem joinBytes_bytes (o : ByteOrder) (w : Word) :
    joinBytes o (firstByte o w) (secondByte o w) = w := by
  have h : w.extractLsb' 8 8 ++ w.extractLsb' 0 8 = w := by
    apply BitVec.eq_of_getLsbD_eq
    intro i hi
    rw [BitVec.getLsbD_append]
    by_cases h8 : i < 8
    · simp [h8]
    · simp only [h8, decide_false, BitVec.getLsbD_extractLsb']
      rw [show 8 + (i - 8) = i by omega]
      simp [show i - 8 < 8 by omega]
  cases o <;> exact h

/-- A word read where it was written is that word. -/
theorem Memory.readWord_writeWord (o : ByteOrder) (m : Memory) (a : Nat) (w : Word) (h : m.wf) :
    (m.writeWord o a w).readWord o a = w := by
  simp [Memory.readWord, Memory.readByte_writeWord _ _ _ _ _ h, joinBytes_bytes]

/-- A word read away from a written one is the old word. -/
theorem Memory.readWord_writeWord_of_ne (o : ByteOrder) (m : Memory) (a x : Nat) (w : Word)
    (h : m.wf) (hx : x + 1 < a ∨ a + 1 < x) :
    (m.writeWord o a w).readWord o x = m.readWord o x := by
  unfold Memory.readWord
  rw [Memory.readByte_writeWord _ _ _ _ _ h, Memory.readByte_writeWord _ _ _ _ _ h,
    if_neg (by omega), if_neg (by omega), if_neg (by omega), if_neg (by omega)]

end Sys2Proof.Machine
end

