-- ==== Sys2Proof/Laws/State.lean ====
section
/-! SUPPORT. What each named update of the state does to each field, one lemma per field. -/

namespace Sys2Proof.Machine

/-! The foreground's advance -/

@[simp] theorem State.fgNext_cfg (s : State) : (s.fgNext).cfg = s.cfg := rfl
@[simp] theorem State.fgNext_ecgRun (s : State) : (s.fgNext).ecgRun = s.ecgRun := rfl
@[simp] theorem State.fgNext_ecgNext (s : State) : (s.fgNext).ecgNext = s.ecgNext := rfl
@[simp] theorem State.fgNext_latA (s : State) : (s.fgNext).latA = s.latA := rfl
@[simp] theorem State.fgNext_latB (s : State) : (s.fgNext).latB = s.latB := rfl
@[simp] theorem State.fgNext_dchEn (s : State) : (s.fgNext).dchEn = s.dchEn := rfl
@[simp] theorem State.fgNext_dchSrc (s : State) : (s.fgNext).dchSrc = s.dchSrc := rfl
@[simp] theorem State.fgNext_dchArmed (s : State) : (s.fgNext).dchArmed = s.dchArmed := rfl
@[simp] theorem State.fgNext_dchIdx (s : State) : (s.fgNext).dchIdx = s.dchIdx := rfl
@[simp] theorem State.fgNext_cchEn (s : State) : (s.fgNext).cchEn = s.cchEn := rfl
@[simp] theorem State.fgNext_cchIdx (s : State) : (s.fgNext).cchIdx = s.cchIdx := rfl
@[simp] theorem State.fgNext_portOut (s : State) : (s.fgNext).portOut = s.portOut := rfl
@[simp] theorem State.fgNext_sigDone (s : State) : (s.fgNext).sigDone = s.sigDone := rfl
@[simp] theorem State.fgNext_trace (s : State) : (s.fgNext).trace = s.trace := rfl
@[simp] theorem State.fgNext_hostInited (s : State) : (s.fgNext).hostInited = s.hostInited := rfl
@[simp] theorem State.fgNext_gateActive (s : State) : (s.fgNext).gateActive = s.gateActive := rfl
@[simp] theorem State.fgNext_gateCts (s : State) : (s.fgNext).gateCts = s.gateCts := rfl
@[simp] theorem State.fgNext_hostInh (s : State) : (s.fgNext).hostInh = s.hostInh := rfl
@[simp] theorem State.fgNext_now (s : State) : (s.fgNext).now = s.now := rfl
@[simp] theorem State.fgNext_mem (s : State) : (s.fgNext).mem = s.mem := rfl
@[simp] theorem State.fgNext_owned (s : State) : (s.fgNext).owned = s.owned := rfl
@[simp] theorem State.fgNext_raced (s : State) : (s.fgNext).raced = s.raced := rfl
@[simp] theorem State.fgNext_fgProg (s : State) : (s.fgNext).fgProg = s.fgProg := rfl
@[simp] theorem State.fgNext_fgPos (s : State) : (s.fgNext).fgPos = s.fgPos + 1 := rfl
@[simp] theorem State.fgNext_busyResults (s : State) : (s.fgNext).busyResults = s.busyResults := rfl
@[simp] theorem State.fgNext_ihProg (s : State) : (s.fgNext).ihProg = s.ihProg := rfl
@[simp] theorem State.fgNext_ihPos (s : State) : (s.fgNext).ihPos = s.ihPos := rfl
@[simp] theorem State.fgNext_turns (s : State) : (s.fgNext).turns = s.turns := rfl
@[simp] theorem State.fgNext_draws (s : State) : (s.fgNext).draws = s.draws := rfl

/-! The interrupt context's advance -/

@[simp] theorem State.ihNext_cfg (s : State) : (s.ihNext).cfg = s.cfg := rfl
@[simp] theorem State.ihNext_ecgRun (s : State) : (s.ihNext).ecgRun = s.ecgRun := rfl
@[simp] theorem State.ihNext_ecgNext (s : State) : (s.ihNext).ecgNext = s.ecgNext := rfl
@[simp] theorem State.ihNext_latA (s : State) : (s.ihNext).latA = s.latA := rfl
@[simp] theorem State.ihNext_latB (s : State) : (s.ihNext).latB = s.latB := rfl
@[simp] theorem State.ihNext_dchEn (s : State) : (s.ihNext).dchEn = s.dchEn := rfl
@[simp] theorem State.ihNext_dchSrc (s : State) : (s.ihNext).dchSrc = s.dchSrc := rfl
@[simp] theorem State.ihNext_dchArmed (s : State) : (s.ihNext).dchArmed = s.dchArmed := rfl
@[simp] theorem State.ihNext_dchIdx (s : State) : (s.ihNext).dchIdx = s.dchIdx := rfl
@[simp] theorem State.ihNext_cchEn (s : State) : (s.ihNext).cchEn = s.cchEn := rfl
@[simp] theorem State.ihNext_cchIdx (s : State) : (s.ihNext).cchIdx = s.cchIdx := rfl
@[simp] theorem State.ihNext_portOut (s : State) : (s.ihNext).portOut = s.portOut := rfl
@[simp] theorem State.ihNext_sigDone (s : State) : (s.ihNext).sigDone = s.sigDone := rfl
@[simp] theorem State.ihNext_trace (s : State) : (s.ihNext).trace = s.trace := rfl
@[simp] theorem State.ihNext_hostInited (s : State) : (s.ihNext).hostInited = s.hostInited := rfl
@[simp] theorem State.ihNext_gateActive (s : State) : (s.ihNext).gateActive = s.gateActive := rfl
@[simp] theorem State.ihNext_gateCts (s : State) : (s.ihNext).gateCts = s.gateCts := rfl
@[simp] theorem State.ihNext_hostInh (s : State) : (s.ihNext).hostInh = s.hostInh := rfl
@[simp] theorem State.ihNext_now (s : State) : (s.ihNext).now = s.now := rfl
@[simp] theorem State.ihNext_mem (s : State) : (s.ihNext).mem = s.mem := rfl
@[simp] theorem State.ihNext_owned (s : State) : (s.ihNext).owned = s.owned := rfl
@[simp] theorem State.ihNext_raced (s : State) : (s.ihNext).raced = s.raced := rfl
@[simp] theorem State.ihNext_fgProg (s : State) : (s.ihNext).fgProg = s.fgProg := rfl
@[simp] theorem State.ihNext_fgPos (s : State) : (s.ihNext).fgPos = s.fgPos := rfl
@[simp] theorem State.ihNext_busyResults (s : State) : (s.ihNext).busyResults = s.busyResults := rfl
@[simp] theorem State.ihNext_ihProg (s : State) : (s.ihNext).ihProg = s.ihProg := rfl
@[simp] theorem State.ihNext_ihPos (s : State) : (s.ihNext).ihPos = s.ihPos + 1 := rfl
@[simp] theorem State.ihNext_turns (s : State) : (s.ihNext).turns = s.turns := rfl
@[simp] theorem State.ihNext_draws (s : State) : (s.ihNext).draws = s.draws := rfl

/-! A 16-bit store of the host -/

@[simp] theorem State.storeWord_cfg (s : State) (a : Nat) (w : Word) :
    (s.storeWord a w).cfg = s.cfg := rfl
@[simp] theorem State.storeWord_ecgRun (s : State) (a : Nat) (w : Word) :
    (s.storeWord a w).ecgRun = s.ecgRun := rfl
@[simp] theorem State.storeWord_ecgNext (s : State) (a : Nat) (w : Word) :
    (s.storeWord a w).ecgNext = s.ecgNext := rfl
@[simp] theorem State.storeWord_latA (s : State) (a : Nat) (w : Word) :
    (s.storeWord a w).latA = s.latA := rfl
@[simp] theorem State.storeWord_latB (s : State) (a : Nat) (w : Word) :
    (s.storeWord a w).latB = s.latB := rfl
@[simp] theorem State.storeWord_dchEn (s : State) (a : Nat) (w : Word) :
    (s.storeWord a w).dchEn = s.dchEn := rfl
@[simp] theorem State.storeWord_dchSrc (s : State) (a : Nat) (w : Word) :
    (s.storeWord a w).dchSrc = s.dchSrc := rfl
@[simp] theorem State.storeWord_dchArmed (s : State) (a : Nat) (w : Word) :
    (s.storeWord a w).dchArmed = s.dchArmed := rfl
@[simp] theorem State.storeWord_dchIdx (s : State) (a : Nat) (w : Word) :
    (s.storeWord a w).dchIdx = s.dchIdx := rfl
@[simp] theorem State.storeWord_cchEn (s : State) (a : Nat) (w : Word) :
    (s.storeWord a w).cchEn = s.cchEn := rfl
@[simp] theorem State.storeWord_cchIdx (s : State) (a : Nat) (w : Word) :
    (s.storeWord a w).cchIdx = s.cchIdx := rfl
@[simp] theorem State.storeWord_portOut (s : State) (a : Nat) (w : Word) :
    (s.storeWord a w).portOut = s.portOut := rfl
@[simp] theorem State.storeWord_sigDone (s : State) (a : Nat) (w : Word) :
    (s.storeWord a w).sigDone = s.sigDone := rfl
@[simp] theorem State.storeWord_trace (s : State) (a : Nat) (w : Word) :
    (s.storeWord a w).trace = s.trace := rfl
@[simp] theorem State.storeWord_hostInited (s : State) (a : Nat) (w : Word) :
    (s.storeWord a w).hostInited = s.hostInited := rfl
@[simp] theorem State.storeWord_gateActive (s : State) (a : Nat) (w : Word) :
    (s.storeWord a w).gateActive = s.gateActive := rfl
@[simp] theorem State.storeWord_gateCts (s : State) (a : Nat) (w : Word) :
    (s.storeWord a w).gateCts = s.gateCts := rfl
@[simp] theorem State.storeWord_hostInh (s : State) (a : Nat) (w : Word) :
    (s.storeWord a w).hostInh = s.hostInh := rfl
@[simp] theorem State.storeWord_now (s : State) (a : Nat) (w : Word) :
    (s.storeWord a w).now = s.now := rfl
@[simp] theorem State.storeWord_mem (s : State) (a : Nat) (w : Word) :
    (s.storeWord a w).mem = s.mem.writeWord s.cfg.byteOrder a w := rfl
@[simp] theorem State.storeWord_owned (s : State) (a : Nat) (w : Word) :
    (s.storeWord a w).owned = s.owned := rfl
@[simp] theorem State.storeWord_raced (s : State) (a : Nat) (w : Word) :
    (s.storeWord a w).raced = s.racedAfter (wordsTouched a) := rfl
@[simp] theorem State.storeWord_fgProg (s : State) (a : Nat) (w : Word) :
    (s.storeWord a w).fgProg = s.fgProg := rfl
@[simp] theorem State.storeWord_fgPos (s : State) (a : Nat) (w : Word) :
    (s.storeWord a w).fgPos = s.fgPos := rfl
@[simp] theorem State.storeWord_busyResults (s : State) (a : Nat) (w : Word) :
    (s.storeWord a w).busyResults = s.busyResults := rfl
@[simp] theorem State.storeWord_ihProg (s : State) (a : Nat) (w : Word) :
    (s.storeWord a w).ihProg = s.ihProg := rfl
@[simp] theorem State.storeWord_ihPos (s : State) (a : Nat) (w : Word) :
    (s.storeWord a w).ihPos = s.ihPos := rfl
@[simp] theorem State.storeWord_turns (s : State) (a : Nat) (w : Word) :
    (s.storeWord a w).turns = s.turns := rfl
@[simp] theorem State.storeWord_draws (s : State) (a : Nat) (w : Word) :
    (s.storeWord a w).draws = s.draws := rfl

/-! A byte store of the caller -/

@[simp] theorem State.storeByte_cfg (s : State) (a : Nat) (b : Byte) :
    (s.storeByte a b).cfg = s.cfg := rfl
@[simp] theorem State.storeByte_ecgRun (s : State) (a : Nat) (b : Byte) :
    (s.storeByte a b).ecgRun = s.ecgRun := rfl
@[simp] theorem State.storeByte_ecgNext (s : State) (a : Nat) (b : Byte) :
    (s.storeByte a b).ecgNext = s.ecgNext := rfl
@[simp] theorem State.storeByte_latA (s : State) (a : Nat) (b : Byte) :
    (s.storeByte a b).latA = s.latA := rfl
@[simp] theorem State.storeByte_latB (s : State) (a : Nat) (b : Byte) :
    (s.storeByte a b).latB = s.latB := rfl
@[simp] theorem State.storeByte_dchEn (s : State) (a : Nat) (b : Byte) :
    (s.storeByte a b).dchEn = s.dchEn := rfl
@[simp] theorem State.storeByte_dchSrc (s : State) (a : Nat) (b : Byte) :
    (s.storeByte a b).dchSrc = s.dchSrc := rfl
@[simp] theorem State.storeByte_dchArmed (s : State) (a : Nat) (b : Byte) :
    (s.storeByte a b).dchArmed = s.dchArmed := rfl
@[simp] theorem State.storeByte_dchIdx (s : State) (a : Nat) (b : Byte) :
    (s.storeByte a b).dchIdx = s.dchIdx := rfl
@[simp] theorem State.storeByte_cchEn (s : State) (a : Nat) (b : Byte) :
    (s.storeByte a b).cchEn = s.cchEn := rfl
@[simp] theorem State.storeByte_cchIdx (s : State) (a : Nat) (b : Byte) :
    (s.storeByte a b).cchIdx = s.cchIdx := rfl
@[simp] theorem State.storeByte_portOut (s : State) (a : Nat) (b : Byte) :
    (s.storeByte a b).portOut = s.portOut := rfl
@[simp] theorem State.storeByte_sigDone (s : State) (a : Nat) (b : Byte) :
    (s.storeByte a b).sigDone = s.sigDone := rfl
@[simp] theorem State.storeByte_trace (s : State) (a : Nat) (b : Byte) :
    (s.storeByte a b).trace = s.trace := rfl
@[simp] theorem State.storeByte_hostInited (s : State) (a : Nat) (b : Byte) :
    (s.storeByte a b).hostInited = s.hostInited := rfl
@[simp] theorem State.storeByte_gateActive (s : State) (a : Nat) (b : Byte) :
    (s.storeByte a b).gateActive = s.gateActive := rfl
@[simp] theorem State.storeByte_gateCts (s : State) (a : Nat) (b : Byte) :
    (s.storeByte a b).gateCts = s.gateCts := rfl
@[simp] theorem State.storeByte_hostInh (s : State) (a : Nat) (b : Byte) :
    (s.storeByte a b).hostInh = s.hostInh := rfl
@[simp] theorem State.storeByte_now (s : State) (a : Nat) (b : Byte) :
    (s.storeByte a b).now = s.now := rfl
@[simp] theorem State.storeByte_mem (s : State) (a : Nat) (b : Byte) :
    (s.storeByte a b).mem = s.mem.writeByte a b := rfl
@[simp] theorem State.storeByte_owned (s : State) (a : Nat) (b : Byte) :
    (s.storeByte a b).owned = s.owned := rfl
@[simp] theorem State.storeByte_raced (s : State) (a : Nat) (b : Byte) :
    (s.storeByte a b).raced = s.racedAfter [a - a % 2] := rfl
@[simp] theorem State.storeByte_fgProg (s : State) (a : Nat) (b : Byte) :
    (s.storeByte a b).fgProg = s.fgProg := rfl
@[simp] theorem State.storeByte_fgPos (s : State) (a : Nat) (b : Byte) :
    (s.storeByte a b).fgPos = s.fgPos := rfl
@[simp] theorem State.storeByte_busyResults (s : State) (a : Nat) (b : Byte) :
    (s.storeByte a b).busyResults = s.busyResults := rfl
@[simp] theorem State.storeByte_ihProg (s : State) (a : Nat) (b : Byte) :
    (s.storeByte a b).ihProg = s.ihProg := rfl
@[simp] theorem State.storeByte_ihPos (s : State) (a : Nat) (b : Byte) :
    (s.storeByte a b).ihPos = s.ihPos := rfl
@[simp] theorem State.storeByte_turns (s : State) (a : Nat) (b : Byte) :
    (s.storeByte a b).turns = s.turns := rfl
@[simp] theorem State.storeByte_draws (s : State) (a : Nat) (b : Byte) :
    (s.storeByte a b).draws = s.draws := rfl

/-! A write of the port -/

@[simp] theorem State.writePort_cfg (s : State) (p : PortKind) (k : Nat) (v : Word) :
    (s.writePort p k v).cfg = s.cfg := rfl
@[simp] theorem State.writePort_ecgRun (s : State) (p : PortKind) (k : Nat) (v : Word) :
    (s.writePort p k v).ecgRun = s.ecgRun := rfl
@[simp] theorem State.writePort_ecgNext (s : State) (p : PortKind) (k : Nat) (v : Word) :
    (s.writePort p k v).ecgNext = s.ecgNext := rfl
@[simp] theorem State.writePort_latA (s : State) (p : PortKind) (k : Nat) (v : Word) :
    (s.writePort p k v).latA = s.latA := rfl
@[simp] theorem State.writePort_latB (s : State) (p : PortKind) (k : Nat) (v : Word) :
    (s.writePort p k v).latB = s.latB := rfl
@[simp] theorem State.writePort_dchEn (s : State) (p : PortKind) (k : Nat) (v : Word) :
    (s.writePort p k v).dchEn = s.dchEn := rfl
@[simp] theorem State.writePort_dchSrc (s : State) (p : PortKind) (k : Nat) (v : Word) :
    (s.writePort p k v).dchSrc = s.dchSrc := rfl
@[simp] theorem State.writePort_dchArmed (s : State) (p : PortKind) (k : Nat) (v : Word) :
    (s.writePort p k v).dchArmed = s.dchArmed := rfl
@[simp] theorem State.writePort_dchIdx (s : State) (p : PortKind) (k : Nat) (v : Word) :
    (s.writePort p k v).dchIdx = s.dchIdx := rfl
@[simp] theorem State.writePort_cchEn (s : State) (p : PortKind) (k : Nat) (v : Word) :
    (s.writePort p k v).cchEn = s.cchEn := rfl
@[simp] theorem State.writePort_cchIdx (s : State) (p : PortKind) (k : Nat) (v : Word) :
    (s.writePort p k v).cchIdx = s.cchIdx := rfl
@[simp] theorem State.writePort_portOut (s : State) (p : PortKind) (k : Nat) (v : Word) :
    (s.writePort p k v).portOut = v := rfl
@[simp] theorem State.writePort_sigDone (s : State) (p : PortKind) (k : Nat) (v : Word) :
    (s.writePort p k v).sigDone = s.sigDone := rfl
@[simp] theorem State.writePort_trace (s : State) (p : PortKind) (k : Nat) (v : Word) :
    (s.writePort p k v).trace = s.trace ++ [⟨p, k, v⟩] := rfl
@[simp] theorem State.writePort_hostInited (s : State) (p : PortKind) (k : Nat) (v : Word) :
    (s.writePort p k v).hostInited = s.hostInited := rfl
@[simp] theorem State.writePort_gateActive (s : State) (p : PortKind) (k : Nat) (v : Word) :
    (s.writePort p k v).gateActive = s.gateActive := rfl
@[simp] theorem State.writePort_gateCts (s : State) (p : PortKind) (k : Nat) (v : Word) :
    (s.writePort p k v).gateCts = s.gateCts := rfl
@[simp] theorem State.writePort_hostInh (s : State) (p : PortKind) (k : Nat) (v : Word) :
    (s.writePort p k v).hostInh = s.hostInh := rfl
@[simp] theorem State.writePort_now (s : State) (p : PortKind) (k : Nat) (v : Word) :
    (s.writePort p k v).now = s.now := rfl
@[simp] theorem State.writePort_mem (s : State) (p : PortKind) (k : Nat) (v : Word) :
    (s.writePort p k v).mem = s.mem := rfl
@[simp] theorem State.writePort_owned (s : State) (p : PortKind) (k : Nat) (v : Word) :
    (s.writePort p k v).owned = s.owned := rfl
@[simp] theorem State.writePort_raced (s : State) (p : PortKind) (k : Nat) (v : Word) :
    (s.writePort p k v).raced = s.raced := rfl
@[simp] theorem State.writePort_fgProg (s : State) (p : PortKind) (k : Nat) (v : Word) :
    (s.writePort p k v).fgProg = s.fgProg := rfl
@[simp] theorem State.writePort_fgPos (s : State) (p : PortKind) (k : Nat) (v : Word) :
    (s.writePort p k v).fgPos = s.fgPos := rfl
@[simp] theorem State.writePort_busyResults (s : State) (p : PortKind) (k : Nat) (v : Word) :
    (s.writePort p k v).busyResults = s.busyResults := rfl
@[simp] theorem State.writePort_ihProg (s : State) (p : PortKind) (k : Nat) (v : Word) :
    (s.writePort p k v).ihProg = s.ihProg := rfl
@[simp] theorem State.writePort_ihPos (s : State) (p : PortKind) (k : Nat) (v : Word) :
    (s.writePort p k v).ihPos = s.ihPos := rfl
@[simp] theorem State.writePort_turns (s : State) (p : PortKind) (k : Nat) (v : Word) :
    (s.writePort p k v).turns = s.turns := rfl
@[simp] theorem State.writePort_draws (s : State) (p : PortKind) (k : Nat) (v : Word) :
    (s.writePort p k v).draws = s.draws := rfl

/-! The interrupt's entry -/

@[simp] theorem State.takeInterrupt_cfg (s : State) : (s.takeInterrupt).cfg = s.cfg := rfl
@[simp] theorem State.takeInterrupt_ecgRun (s : State) : (s.takeInterrupt).ecgRun = s.ecgRun := rfl
@[simp] theorem State.takeInterrupt_ecgNext (s : State) :
    (s.takeInterrupt).ecgNext = s.ecgNext := rfl
@[simp] theorem State.takeInterrupt_latA (s : State) : (s.takeInterrupt).latA = s.latA := rfl
@[simp] theorem State.takeInterrupt_latB (s : State) : (s.takeInterrupt).latB = s.latB := rfl
@[simp] theorem State.takeInterrupt_dchEn (s : State) : (s.takeInterrupt).dchEn = s.dchEn := rfl
@[simp] theorem State.takeInterrupt_dchSrc (s : State) : (s.takeInterrupt).dchSrc = s.dchSrc := rfl
@[simp] theorem State.takeInterrupt_dchArmed (s : State) :
    (s.takeInterrupt).dchArmed = s.dchArmed := rfl
@[simp] theorem State.takeInterrupt_dchIdx (s : State) : (s.takeInterrupt).dchIdx = s.dchIdx := rfl
@[simp] theorem State.takeInterrupt_cchEn (s : State) : (s.takeInterrupt).cchEn = s.cchEn := rfl
@[simp] theorem State.takeInterrupt_cchIdx (s : State) : (s.takeInterrupt).cchIdx = s.cchIdx := rfl
@[simp] theorem State.takeInterrupt_portOut (s : State) :
    (s.takeInterrupt).portOut = s.portOut := rfl
@[simp] theorem State.takeInterrupt_sigDone (s : State) :
    (s.takeInterrupt).sigDone = s.sigDone := rfl
@[simp] theorem State.takeInterrupt_trace (s : State) : (s.takeInterrupt).trace = s.trace := rfl
@[simp] theorem State.takeInterrupt_hostInited (s : State) :
    (s.takeInterrupt).hostInited = s.hostInited := rfl
@[simp] theorem State.takeInterrupt_gateActive (s : State) :
    (s.takeInterrupt).gateActive = s.gateActive := rfl
@[simp] theorem State.takeInterrupt_gateCts (s : State) :
    (s.takeInterrupt).gateCts = s.gateCts := rfl
@[simp] theorem State.takeInterrupt_hostInh (s : State) : (s.takeInterrupt).hostInh = true := rfl
@[simp] theorem State.takeInterrupt_now (s : State) : (s.takeInterrupt).now = s.now := rfl
@[simp] theorem State.takeInterrupt_mem (s : State) : (s.takeInterrupt).mem = s.mem := rfl
@[simp] theorem State.takeInterrupt_owned (s : State) : (s.takeInterrupt).owned = s.owned := rfl
@[simp] theorem State.takeInterrupt_raced (s : State) : (s.takeInterrupt).raced = s.raced := rfl
@[simp] theorem State.takeInterrupt_fgProg (s : State) : (s.takeInterrupt).fgProg = s.fgProg := rfl
@[simp] theorem State.takeInterrupt_fgPos (s : State) : (s.takeInterrupt).fgPos = s.fgPos := rfl
@[simp] theorem State.takeInterrupt_busyResults (s : State) :
    (s.takeInterrupt).busyResults = s.busyResults := rfl
@[simp] theorem State.takeInterrupt_ihProg (s : State) : (s.takeInterrupt).ihProg = s.ihProg := rfl
@[simp] theorem State.takeInterrupt_ihPos (s : State) : (s.takeInterrupt).ihPos = s.ihPos + 1 := rfl
@[simp] theorem State.takeInterrupt_turns (s : State) : (s.takeInterrupt).turns = s.turns := rfl
@[simp] theorem State.takeInterrupt_draws (s : State) : (s.takeInterrupt).draws = s.draws := rfl

/-! The interrupt's return -/

@[simp] theorem State.returnFromInterrupt_cfg (s : State) :
    (s.returnFromInterrupt).cfg = s.cfg := rfl
@[simp] theorem State.returnFromInterrupt_ecgRun (s : State) :
    (s.returnFromInterrupt).ecgRun = s.ecgRun := rfl
@[simp] theorem State.returnFromInterrupt_ecgNext (s : State) :
    (s.returnFromInterrupt).ecgNext = s.ecgNext := rfl
@[simp] theorem State.returnFromInterrupt_latA (s : State) :
    (s.returnFromInterrupt).latA = s.latA := rfl
@[simp] theorem State.returnFromInterrupt_latB (s : State) :
    (s.returnFromInterrupt).latB = s.latB := rfl
@[simp] theorem State.returnFromInterrupt_dchEn (s : State) :
    (s.returnFromInterrupt).dchEn = s.dchEn := rfl
@[simp] theorem State.returnFromInterrupt_dchSrc (s : State) :
    (s.returnFromInterrupt).dchSrc = s.dchSrc := rfl
@[simp] theorem State.returnFromInterrupt_dchArmed (s : State) :
    (s.returnFromInterrupt).dchArmed = s.dchArmed := rfl
@[simp] theorem State.returnFromInterrupt_dchIdx (s : State) :
    (s.returnFromInterrupt).dchIdx = s.dchIdx := rfl
@[simp] theorem State.returnFromInterrupt_cchEn (s : State) :
    (s.returnFromInterrupt).cchEn = s.cchEn := rfl
@[simp] theorem State.returnFromInterrupt_cchIdx (s : State) :
    (s.returnFromInterrupt).cchIdx = s.cchIdx := rfl
@[simp] theorem State.returnFromInterrupt_portOut (s : State) :
    (s.returnFromInterrupt).portOut = s.portOut := rfl
@[simp] theorem State.returnFromInterrupt_sigDone (s : State) :
    (s.returnFromInterrupt).sigDone = s.sigDone := rfl
@[simp] theorem State.returnFromInterrupt_trace (s : State) :
    (s.returnFromInterrupt).trace = s.trace := rfl
@[simp] theorem State.returnFromInterrupt_hostInited (s : State) :
    (s.returnFromInterrupt).hostInited = s.hostInited := rfl
@[simp] theorem State.returnFromInterrupt_gateActive (s : State) :
    (s.returnFromInterrupt).gateActive = s.gateActive := rfl
@[simp] theorem State.returnFromInterrupt_gateCts (s : State) :
    (s.returnFromInterrupt).gateCts = s.gateCts := rfl
@[simp] theorem State.returnFromInterrupt_hostInh (s : State) :
    (s.returnFromInterrupt).hostInh = false := rfl
@[simp] theorem State.returnFromInterrupt_now (s : State) :
    (s.returnFromInterrupt).now = s.now := rfl
@[simp] theorem State.returnFromInterrupt_mem (s : State) :
    (s.returnFromInterrupt).mem = s.mem := rfl
@[simp] theorem State.returnFromInterrupt_owned (s : State) :
    (s.returnFromInterrupt).owned = s.owned := rfl
@[simp] theorem State.returnFromInterrupt_raced (s : State) :
    (s.returnFromInterrupt).raced = s.raced := rfl
@[simp] theorem State.returnFromInterrupt_fgProg (s : State) :
    (s.returnFromInterrupt).fgProg = s.fgProg := rfl
@[simp] theorem State.returnFromInterrupt_fgPos (s : State) :
    (s.returnFromInterrupt).fgPos = s.fgPos := rfl
@[simp] theorem State.returnFromInterrupt_busyResults (s : State) :
    (s.returnFromInterrupt).busyResults = s.busyResults := rfl
@[simp] theorem State.returnFromInterrupt_ihProg (s : State) :
    (s.returnFromInterrupt).ihProg = s.ihProg := rfl
@[simp] theorem State.returnFromInterrupt_ihPos (s : State) :
    (s.returnFromInterrupt).ihPos = 0 := rfl
@[simp] theorem State.returnFromInterrupt_turns (s : State) :
    (s.returnFromInterrupt).turns = s.turns := rfl
@[simp] theorem State.returnFromInterrupt_draws (s : State) :
    (s.returnFromInterrupt).draws = s.draws := rfl

/-! The DataChannel's service -/

@[simp] theorem State.serveData_cfg (s : State) : (s.serveData).cfg = s.cfg := rfl
@[simp] theorem State.serveData_ecgRun (s : State) : (s.serveData).ecgRun = s.ecgRun := rfl
@[simp] theorem State.serveData_ecgNext (s : State) : (s.serveData).ecgNext = s.ecgNext := rfl
@[simp] theorem State.serveData_latA (s : State) : (s.serveData).latA = false := rfl
@[simp] theorem State.serveData_latB (s : State) : (s.serveData).latB = s.latB := rfl
@[simp] theorem State.serveData_dchEn (s : State) :
    (s.serveData).dchEn = !lastOfPass s.cfg.n s.dchIdx := rfl
@[simp] theorem State.serveData_dchSrc (s : State) : (s.serveData).dchSrc = s.dchSrc := rfl
@[simp] theorem State.serveData_dchArmed (s : State) : (s.serveData).dchArmed = s.dchArmed := rfl
@[simp] theorem State.serveData_dchIdx (s : State) :
    (s.serveData).dchIdx = nextIdx s.cfg.n s.dchIdx := rfl
@[simp] theorem State.serveData_cchEn (s : State) : (s.serveData).cchEn = s.cchEn := rfl
@[simp] theorem State.serveData_cchIdx (s : State) : (s.serveData).cchIdx = s.cchIdx := rfl
@[simp] theorem State.serveData_portOut (s : State) :
    (s.serveData).portOut = s.frameWord s.dchAddr := rfl
@[simp] theorem State.serveData_sigDone (s : State) : (s.serveData).sigDone = s.sigDone := rfl
@[simp] theorem State.serveData_trace (s : State) :
    (s.serveData).trace = s.trace ++ [⟨.D, s.dchIdx, s.frameWord s.dchAddr⟩] := rfl
@[simp] theorem State.serveData_hostInited (s : State) :
    (s.serveData).hostInited = s.hostInited := rfl
@[simp] theorem State.serveData_gateActive (s : State) :
    (s.serveData).gateActive = s.gateActive := rfl
@[simp] theorem State.serveData_gateCts (s : State) : (s.serveData).gateCts = s.gateCts := rfl
@[simp] theorem State.serveData_hostInh (s : State) : (s.serveData).hostInh = s.hostInh := rfl
@[simp] theorem State.serveData_now (s : State) : (s.serveData).now = s.now := rfl
@[simp] theorem State.serveData_mem (s : State) : (s.serveData).mem = s.mem := rfl
@[simp] theorem State.serveData_owned (s : State) : (s.serveData).owned = s.owned := rfl
@[simp] theorem State.serveData_raced (s : State) :
    (s.serveData).raced = if lastOfPass s.cfg.n s.dchIdx then [] else s.raced := rfl
@[simp] theorem State.serveData_fgProg (s : State) : (s.serveData).fgProg = s.fgProg := rfl
@[simp] theorem State.serveData_fgPos (s : State) : (s.serveData).fgPos = s.fgPos := rfl
@[simp] theorem State.serveData_busyResults (s : State) :
    (s.serveData).busyResults = s.busyResults := rfl
@[simp] theorem State.serveData_ihProg (s : State) : (s.serveData).ihProg = s.ihProg := rfl
@[simp] theorem State.serveData_ihPos (s : State) : (s.serveData).ihPos = s.ihPos := rfl
@[simp] theorem State.serveData_turns (s : State) : (s.serveData).turns = s.turns := rfl
@[simp] theorem State.serveData_draws (s : State) :
    (s.serveData).draws = if (s.racedValues s.dchAddr).isEmpty then s.draws else s.draws + 1 := rfl

/-! The ClockChannel's service -/

@[simp] theorem State.serveClock_cfg (s : State) : (s.serveClock).cfg = s.cfg := rfl
@[simp] theorem State.serveClock_ecgRun (s : State) : (s.serveClock).ecgRun = s.ecgRun := rfl
@[simp] theorem State.serveClock_ecgNext (s : State) : (s.serveClock).ecgNext = s.ecgNext := rfl
@[simp] theorem State.serveClock_latA (s : State) : (s.serveClock).latA = s.latA := rfl
@[simp] theorem State.serveClock_latB (s : State) : (s.serveClock).latB = false := rfl
@[simp] theorem State.serveClock_dchEn (s : State) : (s.serveClock).dchEn = s.dchEn := rfl
@[simp] theorem State.serveClock_dchSrc (s : State) : (s.serveClock).dchSrc = s.dchSrc := rfl
@[simp] theorem State.serveClock_dchArmed (s : State) : (s.serveClock).dchArmed = s.dchArmed := rfl
@[simp] theorem State.serveClock_dchIdx (s : State) : (s.serveClock).dchIdx = s.dchIdx := rfl
@[simp] theorem State.serveClock_cchEn (s : State) :
    (s.serveClock).cchEn = !lastOfPass s.cfg.n s.cchIdx := rfl
@[simp] theorem State.serveClock_cchIdx (s : State) :
    (s.serveClock).cchIdx = nextIdx s.cfg.n s.cchIdx := rfl
@[simp] theorem State.serveClock_portOut (s : State) :
    (s.serveClock).portOut = setSide s.portOut s.cfg.clkmask := rfl
@[simp] theorem State.serveClock_sigDone (s : State) :
    (s.serveClock).sigDone = (s.sigDone || lastOfPass s.cfg.n s.cchIdx) := rfl
@[simp] theorem State.serveClock_trace (s : State) :
    (s.serveClock).trace = s.trace ++ [⟨.C, s.cchIdx, setSide s.portOut s.cfg.clkmask⟩] := rfl
@[simp] theorem State.serveClock_hostInited (s : State) :
    (s.serveClock).hostInited = s.hostInited := rfl
@[simp] theorem State.serveClock_gateActive (s : State) :
    (s.serveClock).gateActive = s.gateActive := rfl
@[simp] theorem State.serveClock_gateCts (s : State) : (s.serveClock).gateCts = s.gateCts := rfl
@[simp] theorem State.serveClock_hostInh (s : State) : (s.serveClock).hostInh = s.hostInh := rfl
@[simp] theorem State.serveClock_now (s : State) : (s.serveClock).now = s.now := rfl
@[simp] theorem State.serveClock_mem (s : State) : (s.serveClock).mem = s.mem := rfl
@[simp] theorem State.serveClock_owned (s : State) : (s.serveClock).owned = s.owned := rfl
@[simp] theorem State.serveClock_raced (s : State) : (s.serveClock).raced = s.raced := rfl
@[simp] theorem State.serveClock_fgProg (s : State) : (s.serveClock).fgProg = s.fgProg := rfl
@[simp] theorem State.serveClock_fgPos (s : State) : (s.serveClock).fgPos = s.fgPos := rfl
@[simp] theorem State.serveClock_busyResults (s : State) :
    (s.serveClock).busyResults = s.busyResults := rfl
@[simp] theorem State.serveClock_ihProg (s : State) : (s.serveClock).ihProg = s.ihProg := rfl
@[simp] theorem State.serveClock_ihPos (s : State) : (s.serveClock).ihPos = s.ihPos := rfl
@[simp] theorem State.serveClock_turns (s : State) : (s.serveClock).turns = s.turns := rfl
@[simp] theorem State.serveClock_draws (s : State) : (s.serveClock).draws = s.draws := rfl

/-! INIT -/

@[simp] theorem State.initialised_cfg (s : State) : (s.initialised).cfg = s.cfg := rfl
@[simp] theorem State.initialised_ecgRun (s : State) : (s.initialised).ecgRun = true := rfl
@[simp] theorem State.initialised_ecgNext (s : State) : (s.initialised).ecgNext = .A := rfl
@[simp] theorem State.initialised_latA (s : State) : (s.initialised).latA = false := rfl
@[simp] theorem State.initialised_latB (s : State) : (s.initialised).latB = false := rfl
@[simp] theorem State.initialised_dchEn (s : State) : (s.initialised).dchEn = false := rfl
@[simp] theorem State.initialised_dchSrc (s : State) : (s.initialised).dchSrc = s.dchSrc := rfl
@[simp] theorem State.initialised_dchArmed (s : State) : (s.initialised).dchArmed = false := rfl
@[simp] theorem State.initialised_dchIdx (s : State) : (s.initialised).dchIdx = 0 := rfl
@[simp] theorem State.initialised_cchEn (s : State) : (s.initialised).cchEn = false := rfl
@[simp] theorem State.initialised_cchIdx (s : State) : (s.initialised).cchIdx = 0 := rfl
@[simp] theorem State.initialised_portOut (s : State) :
    (s.initialised).portOut = s.cfg.idleLevel := rfl
@[simp] theorem State.initialised_sigDone (s : State) : (s.initialised).sigDone = false := rfl
@[simp] theorem State.initialised_trace (s : State) :
    (s.initialised).trace = [⟨.I, 0, s.cfg.idleLevel⟩] := rfl
@[simp] theorem State.initialised_hostInited (s : State) : (s.initialised).hostInited = true := rfl
@[simp] theorem State.initialised_gateActive (s : State) : (s.initialised).gateActive = false := rfl
@[simp] theorem State.initialised_gateCts (s : State) :
    (s.initialised).gateCts = s.drawTimestamp := rfl
@[simp] theorem State.initialised_hostInh (s : State) : (s.initialised).hostInh = false := rfl
@[simp] theorem State.initialised_now (s : State) : (s.initialised).now = s.now := rfl
@[simp] theorem State.initialised_mem (s : State) : (s.initialised).mem = s.mem := rfl
@[simp] theorem State.initialised_owned (s : State) : (s.initialised).owned = s.owned := rfl
@[simp] theorem State.initialised_raced (s : State) : (s.initialised).raced = [] := rfl
@[simp] theorem State.initialised_fgProg (s : State) : (s.initialised).fgProg = s.fgProg := rfl
@[simp] theorem State.initialised_fgPos (s : State) : (s.initialised).fgPos = s.fgPos := rfl
@[simp] theorem State.initialised_busyResults (s : State) :
    (s.initialised).busyResults = s.busyResults := rfl
@[simp] theorem State.initialised_ihProg (s : State) : (s.initialised).ihProg = s.ihProg := rfl
@[simp] theorem State.initialised_ihPos (s : State) : (s.initialised).ihPos = s.ihPos := rfl
@[simp] theorem State.initialised_turns (s : State) : (s.initialised).turns = s.turns := rfl
@[simp] theorem State.initialised_draws (s : State) : (s.initialised).draws = s.draws + 1 := rfl

end Sys2Proof.Machine
end

