-- ==== Sys2Proof/Laws/Stores.lean ====
section
/-! SUPPORT. What the stores of the host do: nothing but the memory and the races changes, the memory
stays canonical, bytes outside the stored range read as before, and the scrub clears the clock bits. -/

namespace Sys2Proof.Machine

theorem State.storeWords_eta (s : State) (a : Nat) (ws : List Word) :
    s.storeWords a ws =
      { s with mem := (s.storeWords a ws).mem, raced := (s.storeWords a ws).raced } := by
  induction ws generalizing s a with
  | nil => rfl
  | cons w ws ih => rw [State.storeWords, ih]; rfl

theorem State.scrubWords_eta (s : State) (a n : Nat) :
    s.scrubWords a n =
      { s with mem := (s.scrubWords a n).mem, raced := (s.scrubWords a n).raced } := by
  induction n generalizing s a with
  | zero => rfl
  | succ n ih => rw [State.scrubWords, ih]; rfl

@[simp] theorem State.storeWords_cfg (s : State) (a : Nat) (ws : List Word) :
    (s.storeWords a ws).cfg = s.cfg := by rw [State.storeWords_eta]
@[simp] theorem State.storeWords_ecgRun (s : State) (a : Nat) (ws : List Word) :
    (s.storeWords a ws).ecgRun = s.ecgRun := by rw [State.storeWords_eta]
@[simp] theorem State.storeWords_ecgNext (s : State) (a : Nat) (ws : List Word) :
    (s.storeWords a ws).ecgNext = s.ecgNext := by rw [State.storeWords_eta]
@[simp] theorem State.storeWords_latA (s : State) (a : Nat) (ws : List Word) :
    (s.storeWords a ws).latA = s.latA := by rw [State.storeWords_eta]
@[simp] theorem State.storeWords_latB (s : State) (a : Nat) (ws : List Word) :
    (s.storeWords a ws).latB = s.latB := by rw [State.storeWords_eta]
@[simp] theorem State.storeWords_dchEn (s : State) (a : Nat) (ws : List Word) :
    (s.storeWords a ws).dchEn = s.dchEn := by rw [State.storeWords_eta]
@[simp] theorem State.storeWords_dchSrc (s : State) (a : Nat) (ws : List Word) :
    (s.storeWords a ws).dchSrc = s.dchSrc := by rw [State.storeWords_eta]
@[simp] theorem State.storeWords_dchArmed (s : State) (a : Nat) (ws : List Word) :
    (s.storeWords a ws).dchArmed = s.dchArmed := by rw [State.storeWords_eta]
@[simp] theorem State.storeWords_dchIdx (s : State) (a : Nat) (ws : List Word) :
    (s.storeWords a ws).dchIdx = s.dchIdx := by rw [State.storeWords_eta]
@[simp] theorem State.storeWords_cchEn (s : State) (a : Nat) (ws : List Word) :
    (s.storeWords a ws).cchEn = s.cchEn := by rw [State.storeWords_eta]
@[simp] theorem State.storeWords_cchIdx (s : State) (a : Nat) (ws : List Word) :
    (s.storeWords a ws).cchIdx = s.cchIdx := by rw [State.storeWords_eta]
@[simp] theorem State.storeWords_portOut (s : State) (a : Nat) (ws : List Word) :
    (s.storeWords a ws).portOut = s.portOut := by rw [State.storeWords_eta]
@[simp] theorem State.storeWords_sigDone (s : State) (a : Nat) (ws : List Word) :
    (s.storeWords a ws).sigDone = s.sigDone := by rw [State.storeWords_eta]
@[simp] theorem State.storeWords_trace (s : State) (a : Nat) (ws : List Word) :
    (s.storeWords a ws).trace = s.trace := by rw [State.storeWords_eta]
@[simp] theorem State.storeWords_hostInited (s : State) (a : Nat) (ws : List Word) :
    (s.storeWords a ws).hostInited = s.hostInited := by rw [State.storeWords_eta]
@[simp] theorem State.storeWords_gateActive (s : State) (a : Nat) (ws : List Word) :
    (s.storeWords a ws).gateActive = s.gateActive := by rw [State.storeWords_eta]
@[simp] theorem State.storeWords_gateCts (s : State) (a : Nat) (ws : List Word) :
    (s.storeWords a ws).gateCts = s.gateCts := by rw [State.storeWords_eta]
@[simp] theorem State.storeWords_hostInh (s : State) (a : Nat) (ws : List Word) :
    (s.storeWords a ws).hostInh = s.hostInh := by rw [State.storeWords_eta]
@[simp] theorem State.storeWords_now (s : State) (a : Nat) (ws : List Word) :
    (s.storeWords a ws).now = s.now := by rw [State.storeWords_eta]
@[simp] theorem State.storeWords_owned (s : State) (a : Nat) (ws : List Word) :
    (s.storeWords a ws).owned = s.owned := by rw [State.storeWords_eta]
@[simp] theorem State.storeWords_fgProg (s : State) (a : Nat) (ws : List Word) :
    (s.storeWords a ws).fgProg = s.fgProg := by rw [State.storeWords_eta]
@[simp] theorem State.storeWords_fgPos (s : State) (a : Nat) (ws : List Word) :
    (s.storeWords a ws).fgPos = s.fgPos := by rw [State.storeWords_eta]
@[simp] theorem State.storeWords_busyResults (s : State) (a : Nat) (ws : List Word) :
    (s.storeWords a ws).busyResults = s.busyResults := by rw [State.storeWords_eta]
@[simp] theorem State.storeWords_ihProg (s : State) (a : Nat) (ws : List Word) :
    (s.storeWords a ws).ihProg = s.ihProg := by rw [State.storeWords_eta]
@[simp] theorem State.storeWords_ihPos (s : State) (a : Nat) (ws : List Word) :
    (s.storeWords a ws).ihPos = s.ihPos := by rw [State.storeWords_eta]
@[simp] theorem State.storeWords_turns (s : State) (a : Nat) (ws : List Word) :
    (s.storeWords a ws).turns = s.turns := by rw [State.storeWords_eta]
@[simp] theorem State.storeWords_draws (s : State) (a : Nat) (ws : List Word) :
    (s.storeWords a ws).draws = s.draws := by rw [State.storeWords_eta]

@[simp] theorem State.scrubWords_cfg (s : State) (a n : Nat) :
    (s.scrubWords a n).cfg = s.cfg := by rw [State.scrubWords_eta]
@[simp] theorem State.scrubWords_ecgRun (s : State) (a n : Nat) :
    (s.scrubWords a n).ecgRun = s.ecgRun := by rw [State.scrubWords_eta]
@[simp] theorem State.scrubWords_ecgNext (s : State) (a n : Nat) :
    (s.scrubWords a n).ecgNext = s.ecgNext := by rw [State.scrubWords_eta]
@[simp] theorem State.scrubWords_latA (s : State) (a n : Nat) :
    (s.scrubWords a n).latA = s.latA := by rw [State.scrubWords_eta]
@[simp] theorem State.scrubWords_latB (s : State) (a n : Nat) :
    (s.scrubWords a n).latB = s.latB := by rw [State.scrubWords_eta]
@[simp] theorem State.scrubWords_dchEn (s : State) (a n : Nat) :
    (s.scrubWords a n).dchEn = s.dchEn := by rw [State.scrubWords_eta]
@[simp] theorem State.scrubWords_dchSrc (s : State) (a n : Nat) :
    (s.scrubWords a n).dchSrc = s.dchSrc := by rw [State.scrubWords_eta]
@[simp] theorem State.scrubWords_dchArmed (s : State) (a n : Nat) :
    (s.scrubWords a n).dchArmed = s.dchArmed := by rw [State.scrubWords_eta]
@[simp] theorem State.scrubWords_dchIdx (s : State) (a n : Nat) :
    (s.scrubWords a n).dchIdx = s.dchIdx := by rw [State.scrubWords_eta]
@[simp] theorem State.scrubWords_cchEn (s : State) (a n : Nat) :
    (s.scrubWords a n).cchEn = s.cchEn := by rw [State.scrubWords_eta]
@[simp] theorem State.scrubWords_cchIdx (s : State) (a n : Nat) :
    (s.scrubWords a n).cchIdx = s.cchIdx := by rw [State.scrubWords_eta]
@[simp] theorem State.scrubWords_portOut (s : State) (a n : Nat) :
    (s.scrubWords a n).portOut = s.portOut := by rw [State.scrubWords_eta]
@[simp] theorem State.scrubWords_sigDone (s : State) (a n : Nat) :
    (s.scrubWords a n).sigDone = s.sigDone := by rw [State.scrubWords_eta]
@[simp] theorem State.scrubWords_trace (s : State) (a n : Nat) :
    (s.scrubWords a n).trace = s.trace := by rw [State.scrubWords_eta]
@[simp] theorem State.scrubWords_hostInited (s : State) (a n : Nat) :
    (s.scrubWords a n).hostInited = s.hostInited := by rw [State.scrubWords_eta]
@[simp] theorem State.scrubWords_gateActive (s : State) (a n : Nat) :
    (s.scrubWords a n).gateActive = s.gateActive := by rw [State.scrubWords_eta]
@[simp] theorem State.scrubWords_gateCts (s : State) (a n : Nat) :
    (s.scrubWords a n).gateCts = s.gateCts := by rw [State.scrubWords_eta]
@[simp] theorem State.scrubWords_hostInh (s : State) (a n : Nat) :
    (s.scrubWords a n).hostInh = s.hostInh := by rw [State.scrubWords_eta]
@[simp] theorem State.scrubWords_now (s : State) (a n : Nat) :
    (s.scrubWords a n).now = s.now := by rw [State.scrubWords_eta]
@[simp] theorem State.scrubWords_owned (s : State) (a n : Nat) :
    (s.scrubWords a n).owned = s.owned := by rw [State.scrubWords_eta]
@[simp] theorem State.scrubWords_fgProg (s : State) (a n : Nat) :
    (s.scrubWords a n).fgProg = s.fgProg := by rw [State.scrubWords_eta]
@[simp] theorem State.scrubWords_fgPos (s : State) (a n : Nat) :
    (s.scrubWords a n).fgPos = s.fgPos := by rw [State.scrubWords_eta]
@[simp] theorem State.scrubWords_busyResults (s : State) (a n : Nat) :
    (s.scrubWords a n).busyResults = s.busyResults := by rw [State.scrubWords_eta]
@[simp] theorem State.scrubWords_ihProg (s : State) (a n : Nat) :
    (s.scrubWords a n).ihProg = s.ihProg := by rw [State.scrubWords_eta]
@[simp] theorem State.scrubWords_ihPos (s : State) (a n : Nat) :
    (s.scrubWords a n).ihPos = s.ihPos := by rw [State.scrubWords_eta]
@[simp] theorem State.scrubWords_turns (s : State) (a n : Nat) :
    (s.scrubWords a n).turns = s.turns := by rw [State.scrubWords_eta]
@[simp] theorem State.scrubWords_draws (s : State) (a n : Nat) :
    (s.scrubWords a n).draws = s.draws := by rw [State.scrubWords_eta]

/-- Stores race with nothing while the DataChannel is disabled. -/
theorem State.storeWords_raced (s : State) (a : Nat) (ws : List Word) (h : s.dchEn = false) :
    (s.storeWords a ws).raced = s.raced := by
  induction ws generalizing s a with
  | nil => rfl
  | cons w ws ih => rw [State.storeWords, ih (s.storeWord a w) _ h]; simp [State.racedAfter, h]

theorem State.scrubWords_raced (s : State) (a n : Nat) (h : s.dchEn = false) :
    (s.scrubWords a n).raced = s.raced := by
  induction n generalizing s a with
  | zero => rfl
  | succ n ih => rw [State.scrubWords, ih (s.storeWord a _) _ h]; simp [State.racedAfter, h]

/-! The memory after stores -/

theorem State.scrubWords_memWf (s : State) (a n : Nat) (h : s.mem.wf) :
    (s.scrubWords a n).mem.wf := by
  induction n generalizing s a with
  | zero => exact h
  | succ n ih => exact ih _ _ (Memory.writeWord_wf _ _ _ _ h)

theorem State.storeWords_memWf (s : State) (a : Nat) (ws : List Word) (h : s.mem.wf) :
    (s.storeWords a ws).mem.wf := by
  induction ws generalizing s a with
  | nil => exact h
  | cons w ws ih => exact ih _ _ (Memory.writeWord_wf _ _ _ _ h)

/-- Bytes outside the scrubbed buffer read as before. -/
theorem State.readByte_scrubWords (s : State) (a n x : Nat) (h : s.mem.wf)
    (hx : x < a ∨ a + 2 * n ≤ x) :
    (s.scrubWords a n).mem.readByte x = s.mem.readByte x := by
  induction n generalizing s a with
  | zero => rfl
  | succ n ih =>
    rw [State.scrubWords, ih _ _ (Memory.writeWord_wf _ _ _ _ h) (by omega),
      State.storeWord_mem, Memory.readByte_writeWord _ _ _ _ _ h, if_neg (by omega),
      if_neg (by omega)]

/-- Bytes outside the stored words read as before. -/
theorem State.readByte_storeWords (s : State) (a x : Nat) (ws : List Word) (h : s.mem.wf)
    (hx : x < a ∨ a + 2 * ws.length ≤ x) :
    (s.storeWords a ws).mem.readByte x = s.mem.readByte x := by
  induction ws generalizing s a with
  | nil => rfl
  | cons w ws ih =>
    simp only [List.length_cons] at hx
    rw [State.storeWords, ih _ _ (Memory.writeWord_wf _ _ _ _ h) (by omega),
      State.storeWord_mem, Memory.readByte_writeWord _ _ _ _ _ h, if_neg (by omega),
      if_neg (by omega)]

/-- Word `k` of stored words reads as word `k` of the list. -/
theorem State.readWord_storeWords (s : State) (a : Nat) (ws : List Word) (k : Nat) (h : s.mem.wf)
    (hk : k < ws.length) : (s.storeWords a ws).readWord (a + 2 * k) = ws[k] := by
  induction ws generalizing s a k with
  | nil => simp at hk
  | cons w ws ih =>
    have hw := Memory.writeWord_wf s.cfg.byteOrder s.mem a w h
    rw [State.storeWords]
    cases k with
    | zero =>
      have := Memory.readWord_writeWord s.cfg.byteOrder s.mem a w h
      simp only [State.readWord, Memory.readWord, State.storeWords_cfg] at this ⊢
      rw [State.readByte_storeWords _ _ _ _ hw (by omega),
        State.readByte_storeWords _ _ _ _ hw (by omega)]
      exact this
    | succ k =>
      rw [show a + 2 * (k + 1) = a + 2 + 2 * k by omega, ih _ _ _ hw (by simpa using hk)]
      rfl

/-- A word outside the scrubbed buffer reads as before. -/
theorem State.readWord_scrubWords_of_out (s : State) (a n x : Nat) (h : s.mem.wf)
    (hx : x + 1 < a ∨ a + 2 * n ≤ x) :
    (s.scrubWords a n).readWord x = s.readWord x := by
  simp only [State.readWord, Memory.readWord, State.scrubWords_cfg]
  rw [State.readByte_scrubWords _ _ _ _ h (by omega), State.readByte_scrubWords _ _ _ _ h (by omega)]

/-- Word `k` of a scrubbed buffer is the old word with its clock bits cleared (R124). -/
theorem State.readWord_scrubWords (s : State) (a n k : Nat) (h : s.mem.wf) (hk : k < n) :
    (s.scrubWords a n).readWord (a + 2 * k) = s.readWord (a + 2 * k) &&& ~~~s.cfg.clkmask := by
  induction n generalizing s a k with
  | zero => omega
  | succ n ih =>
    have hw := Memory.writeWord_wf s.cfg.byteOrder s.mem a (s.readWord a &&& ~~~s.cfg.clkmask) h
    rw [State.scrubWords]
    cases k with
    | zero =>
      rw [State.readWord_scrubWords_of_out _ _ _ _ hw (by omega)]
      exact Memory.readWord_writeWord _ _ _ _ h
    | succ k =>
      rw [show a + 2 * (k + 1) = a + 2 + 2 * k by omega, ih _ _ _ hw (by omega)]
      congr 1
      exact Memory.readWord_writeWord_of_ne _ _ _ _ _ h (by omega)

end Sys2Proof.Machine
end

