-- ==== Sys2Proof/Laws/Effects.lean ====
section
/-! SUPPORT. What an operation, a turn and a step can do, said once: if the answer is a next state, it is
one of the cases listed, with the guards that led to it. Later proofs cite these and do not unfold the
meanings. -/

namespace Sys2Proof.Machine

@[simp] theorem afterInit_next (s t : State) (a : Answer) :
    afterInit s a = .next t ↔ s.hostInited = true ∧ a = .next t := by
  unfold afterInit
  split <;> simp_all

/-- What an operation changes when it answers a next state. An operation that is held leaves the state
as it is. -/
inductive Effect (s : State) : Instr → State → Prop where
  | held (i : Instr) : Effect s i s
  | init (h : s.hostInited = false) : Effect s .init s.initialised.fgNext
  | dchArm (src : Addr) (h : s.hostInited = true) (hd : s.dchEn = false) (hc : s.cchEn = false)
      (ho : oddAddress src = false) (hp : pastTop s.cfg src = false) :
      Effect s (.dchArm src) { s with dchSrc := src, dchArmed := true, dchIdx := 0 }.fgNext
  | latchClr (h : s.hostInited = true) (ha : s.cfg.startAligned = false) :
      Effect s .latchClr { s with latA := false, latB := false }.fgNext
  | dchStart (h : s.hostInited = true) (hd : s.dchEn = false) (ha : s.cfg.startAligned = false) :
      Effect s .dchStart { s with dchEn := true }.fgNext
  | cchStart (h : s.hostInited = true) (hc : s.cchEn = false) (ha : s.cfg.startAligned = false) :
      Effect s .cchStart { s with cchEn := true }.fgNext
  | xferGo (h : s.hostInited = true) (hd : s.dchEn = false) (hc : s.cchEn = false)
      (hs : s.sigDone = false) (hp : s.startInPhase = true) :
      Effect s .xferGo { s with latA := false, latB := false, dchEn := true, cchEn := true }.fgNext
  | xferDisable (h : s.hostInited = true) (hd : s.dchEn = false) (hc : s.cchEn = false) :
      Effect s .xferDisable { s with dchEn := false, cchEn := false }.fgNext
  | doneAck (h : s.hostInited = true) : Effect s .doneAck { s with sigDone := false }.ihNext
  | portIdle (h : s.hostInited = true) :
      Effect s .portIdle (s.writePort .I 0 s.cfg.idleLevel).ihNext
  | edgeA (h : s.hostInited = true) (hr : s.ecgRun = true) (hn : s.ecgNext = .A)
      (hp : s.servicePending = false) : Effect s .edgeA { s with latA := true, ecgNext := .B }
  | edgeB (h : s.hostInited = true) (hr : s.ecgRun = true) (hn : s.ecgNext = .B)
      (hp : s.servicePending = false) : Effect s .edgeB { s with latB := true, ecgNext := .A }
  | dchXfer (h : s.hostInited = true) (hd : s.dchEn = true) (hl : s.latA = true)
      (ha : s.dchReadAdmitted = true) : Effect s .dchXfer s.serveData
  | cchXfer (h : s.hostInited = true) (hc : s.cchEn = true) (hl : s.latB = true) :
      Effect s .cchXfer s.serveClock
  | gateWaitIdle (h : s.hostInited = true) (ha : s.gateActive = false) :
      Effect s .gateWaitIdle s.fgNext
  | gateSetActive (h : s.hostInited = true) :
      Effect s .gateSetActive { s with gateActive := true }.fgNext
  | bufSkip (buf : Addr) (h : s.hostInited = true) (hs : s.cfg.skipclr = true)
      (ho : oddAddress buf = false) (hp : pastTop s.cfg buf = false) :
      Effect s (.bufScrub buf) s.fgNext
  | bufScrub (buf : Addr) (h : s.hostInited = true) (hs : s.cfg.skipclr = false)
      (ho : oddAddress buf = false) (hp : pastTop s.cfg buf = false) :
      Effect s (.bufScrub buf) (s.scrubWords buf.toNat s.cfg.n).fgNext
  | gateWaitLatch (h : s.hostInited = true) (ha : s.gateActive = false)
      (hl : s.latchElapsed = true) : Effect s .gateWaitLatch s.fgNext
  | gateBusy (h : s.hostInited = true) :
      Effect s .gateBusy { s with busyResults := s.busyResults ++ [s.busyResult] }.fgNext
  | tsRecord (h : s.hostInited = true) : Effect s .tsRecord { s with gateCts := s.now }.ihNext
  | gateClrActive (h : s.hostInited = true) :
      Effect s .gateClrActive { s with gateActive := false }.ihNext
  | irqEnter (h : s.hostInited = true) (hs : s.sigDone = true) (hi : s.hostInh = false) :
      Effect s .irqEnter s.takeInterrupt
  | irqExit (h : s.hostInited = true) (hi : s.hostInh = true) (hd : s.handlerDone = true) :
      Effect s .irqExit s.returnFromInterrupt

/-- Every operation that answers a next state has one of the effects of `Effect`. -/
theorem exec_effect {i : Instr} {s t : State} (h : exec i s = .next t) : Effect s i t := by
  cases i <;>
    simp only [exec, execInit, execDchArm, execLatchClr, execDchStart, execCchStart, execXferGo,
      execXferDisable, execDoneAck, execPortIdle, execEdgeA, execEdgeB, execDchXfer, execCchXfer,
      execGateWaitIdle, execGateSetActive, execBufScrub, execGateWaitLatch, execGateBusy,
      execTsRecord, execGateClrActive, execIrqEnter, execIrqExit, afterInit] at h <;>
    (repeat' (split at h)) <;>
    first
      | (cases h; done)
      | (cases h; exact .held _)
      | (cases h
         constructor <;>
           simp_all [State.channelEnabled, State.edgeEnabled, State.dchTriggered,
             State.cchTriggered, State.interruptEnabled])

/-- What a turn does when it answers a next state. -/
inductive TurnEffect (s : State) : Turn → State → Prop where
  | idle (a : Agent) : TurnEffect s (.agent a) s
  | word (a : Agent) (w : OpWord) (i : Instr) (t : State) (hw : s.nextWord a = some w)
      (hi : decode w = some i) (ha : i.agent = a) (he : exec i s = .next t) :
      TurnEffect s (.agent a) t
  | time (d : Nat) : TurnEffect s (.time d) { s with now := s.now + d }
  | own (base : Nat) (ws : List Word) : TurnEffect s (.callerOwn base ws) (s.declare base ws)
  | free (base size : Nat) :
      TurnEffect s (.callerFree base size)
        { s with owned := s.owned.flatMap (fun r => r.without base size) }
  | store (a : Nat) (w : Word) : TurnEffect s (.callerStore a w) (s.storeWord a w)
  | storeByte (a : Nat) (b : Byte) : TurnEffect s (.callerStoreByte a b) (s.storeByte a b)

theorem takeTurn_effect {turn : Turn} {s t : State} (h : takeTurn turn s = .next t) :
    TurnEffect s turn t := by
  cases turn with
  | agent a =>
    simp only [takeTurn] at h
    split at h
    · rename_i w hw
      unfold performWord at h
      split at h
      · simp at h
      · rename_i i hi
        split_ifs at h with ha
        exact .word a w i t hw hi ha h
    · simp only [Host.Outcome.next.injEq] at h
      exact h ▸ .idle a
  | time d => simp only [takeTurn, Host.Outcome.next.injEq] at h; exact h ▸ .time d
  | callerOwn base ws =>
    simp only [takeTurn] at h
    split_ifs at h
    simp only [Host.Outcome.next.injEq] at h; exact h ▸ .own base ws
  | callerFree base size =>
    simp only [takeTurn, Host.Outcome.next.injEq] at h; exact h ▸ .free base size
  | callerStore a w =>
    simp only [takeTurn] at h
    split_ifs at h
    simp only [Host.Outcome.next.injEq] at h; exact h ▸ .store a w
  | callerStoreByte a b =>
    simp only [takeTurn] at h
    split_ifs at h
    simp only [Host.Outcome.next.injEq] at h; exact h ▸ .storeByte a b

/-- What a step does when it answers a next state: the configuration is valid, the programs hold no
reserved word, and the turn has its effect. -/
theorem step_effect {s t : State} (h : step s = .next t) :
    s.cfg.wf = true ∧ s.programsOk = true ∧ TurnEffect s.afterTurn s.nextTurn t := by
  unfold step runStep at h
  split_ifs at h with h1 h2
  exact ⟨by simpa using h1, by simpa using h2, takeTurn_effect h⟩

/-- Taking a turn off the list changes nothing but the list, or the count of draws. -/
theorem State.afterTurn_eta (s : State) :
    s.afterTurn = { s with turns := s.afterTurn.turns, draws := s.afterTurn.draws } := by
  unfold State.afterTurn
  split <;> rfl

/-- The turn taken does not change what an agent's next word is. -/
@[simp] theorem State.nextWord_afterTurn (s : State) (a : Agent) :
    s.afterTurn.nextWord a = s.nextWord a := by
  rw [State.afterTurn_eta]; cases a <;> rfl

/-- When the foreground has a next operation. -/
theorem State.nextWord_foreground (s : State) (w : OpWord) :
    s.nextWord .foreground = some w ↔ s.hostInh = false ∧ s.fgProg[s.fgPos]? = some w := by
  cases h : s.hostInh <;> simp [State.nextWord, h]

/-- When the interrupt context has a next operation. -/
theorem State.nextWord_interrupt (s : State) (w : OpWord) :
    s.nextWord .interrupt = some w ↔
      s.ihProg[s.ihPos]? = some w ∧ (s.hostInh = true ∨ w = encode .irqEnter) := by
  unfold State.nextWord
  cases h : s.ihProg[s.ihPos]? with
  | none => simp
  | some v =>
    by_cases hv : s.hostInh = true ∨ v = encode .irqEnter
    · simp only [Bool.or_eq_true, beq_iff_eq, hv, if_true, Option.some.injEq]
      constructor
      · rintro rfl; exact ⟨rfl, hv⟩
      · exact fun hw => hw.1
    · simp only [Bool.or_eq_true, beq_iff_eq, hv, if_false, reduceCtorEq, Option.some.injEq,
        false_iff]
      rintro ⟨rfl, hw⟩
      exact hv hw

/-- A valid configuration has at least one word in its frame. -/
theorem configValid_n_pos {c : Config} (h : configValid c = true) : 0 < c.n := by
  simp only [configValid, Bool.and_eq_true, beq_iff_eq, decide_eq_true_eq] at h
  unfold Config.n
  omega

end Sys2Proof.Machine
end

