-- ==== Sys2Proof/Laws/Executions.lean ====
section
/-! SUPPORT. The rule that leads from one moment of an execution to a later one, and an infinite execution that
is fair: the turns of the generator, the DataChannel, the ClockChannel and of time go round, after any turns
before them. It shows that the premises of a claim on fair executions can be met. -/

namespace Sys2Proof.Machine

/-! ## From one moment to a later one -/

/-- What the turn of a moment does. -/
theorem IsExecution.effect {ρ : Nat → State} {τ : Nat → Turn} (he : IsExecution ρ τ) (m : Nat) :
    TurnEffect { ρ m with turns := [] } (τ m) (ρ (m + 1)) := (step_effect (he m)).2.2

/-- If every step from `P` stays in `P` or comes to `Q`, and staying for ever comes to `Q`, then `P` leads to
`Q`. -/
theorem leads_to {ρ : Nat → State} {P Q : State → Prop} {n : Nat} (hP : P (ρ n))
    (hstep : ∀ m, n ≤ m → P (ρ m) → P (ρ (m + 1)) ∨ Q (ρ (m + 1)))
    (hprogress : (∀ m, n ≤ m → P (ρ m)) → ∃ m, n ≤ m ∧ Q (ρ m)) : ∃ m, n ≤ m ∧ Q (ρ m) := by
  by_contra hc
  simp only [not_exists, not_and] at hc
  have hall (m : Nat) (hm : n ≤ m) : P (ρ m) := by
    induction m, hm using Nat.le_induction with
    | base => exact hP
    | succ k hk ih => exact (hstep k hk ih).resolve_right (hc _ (by omega))
  obtain ⟨m, hm, h⟩ := hprogress hall
  exact hc m hm h

/-- Weak fairness of one operation in the form `leads_to` asks for: in a set of states where it is enabled, it
is taken. -/
theorem WeaklyFair.taken {ρ : Nat → State} {τ : Nat → Turn} {i : Instr} (h : WeaklyFair ρ τ i)
    {P : State → Prop} (hen : ∀ s, P s → s.ecgRun = true ∧ s.Enabled i) {n : Nat}
    (hall : ∀ m, n ≤ m → P (ρ m)) : ∃ m, n ≤ m ∧ Takes ρ τ i m :=
  h n fun m hm => hen _ (hall m hm)

/-! ## Turns that go round -/

/-- The four turns that go round. -/
def roundTurn (n : Nat) : Turn :=
  match n % 4 with
  | 0 => .agent .generator
  | 1 => .agent .dataChannel
  | 2 => .agent .clockChannel
  | _ => .time 1

/-- The next state of an answer, or the given state if it is none. -/
def nextOr (a : Answer) (s : State) : State :=
  match a with
  | .next t => t
  | .fault _ => s
  | .refused _ => s

/-- The states from `s` on under the turns that go round. -/
def roundState (s : State) : Nat → State
  | 0 => s
  | n + 1 => nextOr (step { roundState s n with turns := [roundTurn n] }) (roundState s n)

/-- What the hardware and time leave as it is: the configuration, the programs, the memory and what the caller
has declared of it, and the host's registers. -/
structure SameHost (s t : State) : Prop where
  cfg : t.cfg = s.cfg
  fgProg : t.fgProg = s.fgProg
  ihProg : t.ihProg = s.ihProg
  fgPos : t.fgPos = s.fgPos
  hostInh : t.hostInh = s.hostInh
  dchSrc : t.dchSrc = s.dchSrc
  owned : t.owned = s.owned
  quiet : s.cchEn = false → t.cchEn = false ∧ t.sigDone = s.sigDone

theorem SameHost.refl (s : State) : SameHost s s :=
  ⟨rfl, rfl, rfl, rfl, rfl, rfl, rfl, fun h => ⟨h, rfl⟩⟩

theorem SameHost.trans {s t u : State} (h : SameHost s t) (k : SameHost t u) : SameHost s u :=
  ⟨k.cfg.trans h.cfg, k.fgProg.trans h.fgProg, k.ihProg.trans h.ihProg, k.fgPos.trans h.fgPos,
    k.hostInh.trans h.hostInh, k.dchSrc.trans h.dchSrc, k.owned.trans h.owned,
    fun hc => ⟨(k.quiet (h.quiet hc).1).1, (k.quiet (h.quiet hc).1).2.trans (h.quiet hc).2⟩⟩

/-- An event of the hardware is never refused, and leaves the host and `NOW` as they are. -/
theorem exec_event {i : Instr} (hi : i.opClass = .ev) (s : State) :
    ∃ t, exec i s = .next t ∧ SameHost s t ∧ t.now = s.now := by
  cases i <;> simp only [Instr.opClass, reduceCtorEq] at hi <;>
    simp only [exec, execEdgeA, execEdgeB, execDchXfer, execCchXfer] <;>
    split_ifs <;>
    exact ⟨_, rfl, ⟨rfl, rfl, rfl, rfl, rfl, rfl, rfl, fun hc => by
      simp_all [State.serveData, State.cchTriggered, State.edge]⟩, rfl⟩

/-- A turn that goes round is never refused; only the turn of time moves `NOW`. -/
theorem step_roundTurn {s : State} (hc : s.cfg.wf = true) (hp : s.programsOk = true) (n : Nat) :
    ∃ t, step { s with turns := [roundTurn n] } = .next t ∧ SameHost s t ∧
      t.now = s.now + (if n % 4 = 3 then 1 else 0) := by
  have hstep (u : Turn) : step { s with turns := [u] } = takeTurn u { s with turns := [] } := by
    simp only [step, runStep, State.programsOk] at hp ⊢
    simp [hc, hp, State.nextTurn, State.afterTurn]
  have key (i : Instr) (hi : i.opClass = .ev) (hd : decode (encode i) = some i)
      (ht : roundTurn n = .agent i.agent) (h : n % 4 ≠ 3)
      (hw : State.nextWord { s with turns := [] } i.agent = some (encode i)) :
      ∃ t, takeTurn (roundTurn n) { s with turns := [] } = .next t ∧ SameHost s t ∧
        t.now = s.now + (if n % 4 = 3 then 1 else 0) := by
    obtain ⟨t, he, hs, hn⟩ := exec_event hi { s with turns := [] }
    refine ⟨t, ?_, ⟨hs.1, hs.2, hs.3, hs.4, hs.5, hs.6, hs.7, hs.8⟩, by rw [hn, if_neg h]; rfl⟩
    simp only [ht, takeTurn, hw, performWord, hd, if_true, he]
  have hlt : n % 4 = 0 ∨ n % 4 = 1 ∨ n % 4 = 2 ∨ n % 4 = 3 := by omega
  rw [hstep]
  obtain h | h | h | h := hlt
  · obtain he | he : s.ecgNext = .A ∨ s.ecgNext = .B := by cases s.ecgNext <;> simp
    · exact key .edgeA rfl (by decide) (by simp only [roundTurn, h, Instr.agent]) (by omega)
        (by simp only [State.nextWord, Instr.agent, he])
    · exact key .edgeB rfl (by decide) (by simp only [roundTurn, h, Instr.agent]) (by omega)
        (by simp only [State.nextWord, Instr.agent, he])
  · exact key .dchXfer rfl (by decide) (by simp only [roundTurn, h, Instr.agent]) (by omega) rfl
  · exact key .cchXfer rfl (by decide) (by simp only [roundTurn, h, Instr.agent]) (by omega) rfl
  · refine ⟨{ s with turns := [], now := s.now + 1 }, ?_, ⟨rfl, rfl, rfl, rfl, rfl, rfl, rfl, fun h => ⟨h, rfl⟩⟩, ?_⟩
    · simp only [roundTurn, h, takeTurn]
    · rw [if_pos h]

/-- The turns that go round make an execution, and leave the host as it is. -/
theorem roundState_execution {s : State} (hc : s.cfg.wf = true) (hp : s.programsOk = true) (n : Nat) :
    SameHost s (roundState s n) ∧ n / 4 ≤ (roundState s n).now ∧
      step { roundState s n with turns := [roundTurn n] } = .next (roundState s (n + 1)) := by
  have hnext (k : Nat) (hk : SameHost s (roundState s k)) :
      SameHost s (roundState s (k + 1)) ∧
        (roundState s (k + 1)).now = (roundState s k).now + (if k % 4 = 3 then 1 else 0) ∧
        step { roundState s k with turns := [roundTurn k] } = .next (roundState s (k + 1)) := by
    obtain ⟨t, ht, hs, hn⟩ := step_roundTurn (s := roundState s k) (hk.cfg ▸ hc)
      (by simpa [State.programsOk, hk.fgProg, hk.ihProg] using hp) k
    have hk1 : roundState s (k + 1) = t := by simp [roundState, ht, nextOr]
    exact ⟨hk1 ▸ hk.trans hs, hk1 ▸ hn, hk1 ▸ ht⟩
  induction n with
  | zero => exact ⟨.refl s, Nat.zero_le _, (hnext 0 (.refl s)).2.2⟩
  | succ n ih =>
    obtain ⟨h1, h2, _⟩ := hnext n ih.1
    refine ⟨h1, ?_, (hnext (n + 1) h1).2.2⟩
    have := ih.2.1
    split_ifs at h2 <;> omega

/-- Every agent of the hardware has its turn again and again. -/
theorem roundTurn_recurs {i : Instr} (hi : i.opClass = .ev) (n : Nat) :
    ∃ m, n ≤ m ∧ roundTurn m = .agent i.agent := by
  cases i <;> simp only [Instr.opClass, reduceCtorEq] at hi
  · exact ⟨4 * n, by omega, by simp [roundTurn, Instr.agent]⟩
  · exact ⟨4 * n, by omega, by simp [roundTurn, Instr.agent]⟩
  · exact ⟨4 * n + 1, by omega, by simp [roundTurn, Instr.agent]⟩
  · exact ⟨4 * n + 2, by omega, by simp [roundTurn, Instr.agent]⟩

/-- Fairness as `Fair` asks for it, but with the operations that are treated weakly fairly named by `P`, and
with no condition on `START_ALIGNED`. -/
structure FairFor (P : Instr → Prop) (ρ : Nat → State) (τ : Nat → Turn) : Prop where
  weak : ∀ i, P i → WeaklyFair ρ τ i
  go : StronglyFair ρ τ .xferGo
  time : TimePasses ρ

theorem FairFor.fair {ρ : Nat → State} {τ : Nat → Turn} {P : Instr → Prop} (h : FairFor P ρ τ)
    (hP : ∀ i, i.opClass = .ev → P i) : Fair ρ τ := ⟨fun i hi => h.weak i (hP i hi), fun _ => h.go, h.time⟩

/-- Weak fairness of the events and strong fairness of XFER.GO, for a foreground that does not stand at it. -/
theorem roundState_fair {s : State} (hc : s.cfg.wf = true) (hp : s.programsOk = true)
    (hw : s.nextWord .foreground ≠ some (encode .xferGo)) :
    IsExecution (roundState s) roundTurn ∧
      FairFor (fun i => i.opClass = .ev) (roundState s) roundTurn := by
  refine ⟨fun n => (roundState_execution hc hp n).2.2, ⟨?_, ?_, ?_⟩⟩
  · intro i hi n henabled
    obtain ⟨m, hm, ht⟩ := roundTurn_recurs hi n
    exact ⟨m, hm, ht, (henabled m hm).2⟩
  · intro hgo
    obtain ⟨m, _, hm⟩ := hgo 0
    have hs := (roundState_execution hc hp m).1
    refine absurd hm.1 ?_
    simpa [State.nextWord, Instr.agent, hs.hostInh, hs.fgProg, hs.fgPos] using hw
  · intro b
    have := (roundState_execution hc hp (4 * (b + 1))).2.1
    exact ⟨4 * (b + 1), by omega⟩

/-- The only operation of the interrupt context with the word of IRQ.ENTER is IRQ.ENTER. -/
theorem eq_irqEnter {i : Instr} (ha : i.agent = .interrupt) (hw : encode i = encode .irqEnter) :
    i = .irqEnter := by
  cases i <;> simp only [Instr.agent, reduceCtorEq] at ha <;> first | rfl | exact absurd hw (by decide)

/-- Once the host's program is over (R134) no operation of the host is enabled, so the turns that go round are
weakly fair to every operation. -/
theorem roundState_over {s : State} (hc : s.cfg.wf = true) (hp : s.programsOk = true)
    (hfg : s.fgProg[s.fgPos]? = none) (hinh : s.hostInh = false) (hdone : s.sigDone = false)
    (hcch : s.cchEn = false) :
    IsExecution (roundState s) roundTurn ∧ FairFor (fun _ => True) (roundState s) roundTurn := by
  obtain ⟨he, hf⟩ := roundState_fair hc hp (by simp [State.nextWord, hfg])
  refine ⟨he, ⟨fun i _ => ?_, hf.go, hf.time⟩⟩
  by_cases hev : i.opClass = .ev
  · exact hf.weak i hev
  · intro n henabled
    obtain ⟨-, hw, t, ht, hne⟩ := henabled n le_rfl
    have hs := (roundState_execution hc hp n).1
    have hag : i.agent = .foreground ∨ i.agent = .interrupt := by
      cases i <;> simp_all [Instr.agent, Instr.opClass]
    rcases hag with ha | ha <;> rw [ha] at hw
    · simp [State.nextWord, hs.hostInh, hs.fgProg, hs.fgPos, hfg] at hw
    · have hi := eq_irqEnter ha (((State.nextWord_interrupt _ _).1 hw).2.resolve_left
        (by simp [hs.hostInh, hinh]))
      subst hi
      have hd : (roundState s n).sigDone = false := (hs.quiet hcch).2.trans hdone
      refine absurd ?_ hne
      simp only [exec, execIrqEnter, State.interruptEnabled, hd, Bool.and_false, Bool.false_and,
        Bool.false_eq_true, if_false, afterInit_next, Host.Outcome.next.injEq] at ht
      exact ht.2.symm

/-! ## Turns before an execution -/

/-- A sequence with one more moment before it. -/
def precede {α : Type} (a : α) (f : Nat → α) : Nat → α
  | 0 => a
  | n + 1 => f n

/-- One more turn before a fair execution leaves it fair. -/
theorem FairFor.precede {P : Instr → Prop} {s : State} {turn : Turn} {ρ : Nat → State} {τ : Nat → Turn}
    (hstep : step { s with turns := [turn] } = .next (ρ 0))
    (h : IsExecution ρ τ ∧ FairFor P ρ τ) :
    IsExecution (precede s ρ) (precede turn τ) ∧ FairFor P (precede s ρ) (precede turn τ) := by
  obtain ⟨he, hf⟩ := h
  refine ⟨fun n => ?_, ⟨?_, ?_, ?_⟩⟩
  · cases n with
    | zero => exact hstep
    | succ n => exact he n
  · intro i hi n h
    obtain ⟨m, hm, ht⟩ := hf.weak i hi n (fun m hm => h (m + 1) (by omega))
    exact ⟨m + 1, by omega, ht⟩
  · intro h n
    obtain ⟨m, hm, ht⟩ := hf.go (fun k => by
      obtain ⟨m, hm, hen⟩ := h (k + 1)
      obtain ⟨j, rfl⟩ : ∃ j, m = j + 1 := ⟨m - 1, by omega⟩
      exact ⟨j, by omega, hen⟩) n
    exact ⟨m + 1, by omega, ht⟩
  · intro b
    obtain ⟨n, hn⟩ := hf.time b
    exact ⟨n + 1, hn⟩

/-- The state after named turns, none if one of the steps is a refusal or `q` fails before one of them. -/
def followed (q : State → Bool) (s : State) : List Turn → Option State
  | [] => some s
  | turn :: turns =>
    if q s then
      match step { s with turns := [turn] } with
      | .next t => followed q t turns
      | .fault _ => none
      | .refused _ => none
    else none

/-- Named turns before a fair execution that starts where they lead: the whole is a fair execution, and `q`
holds at every moment of it. -/
theorem FairFor.follow {P : Instr → Prop} {q : State → Bool} {turns : List Turn} {s t : State}
    {ρ : Nat → State} {τ : Nat → Turn} (hrun : followed q s turns = some t) (h0 : ρ 0 = t)
    (hq : ∀ n, q (ρ n) = true) (h : IsExecution ρ τ ∧ FairFor P ρ τ) :
    ∃ ρ' τ', ρ' 0 = s ∧ (∀ n, q (ρ' n) = true) ∧ IsExecution ρ' τ' ∧ FairFor P ρ' τ' := by
  induction turns generalizing s with
  | nil => exact ⟨ρ, τ, h0.trans (Option.some.inj hrun).symm, hq, h⟩
  | cons turn turns ih =>
    simp only [followed] at hrun
    split_ifs at hrun with hs
    split at hrun
    · rename_i u hu
      obtain ⟨ρ', τ', h0', hq', h'⟩ := ih hrun
      refine ⟨_, _, rfl, fun n => ?_, FairFor.precede (h0' ▸ hu) h'⟩
      cases n with
      | zero => exact hs
      | succ n => exact hq' n
    · cases hrun
    · cases hrun

end Sys2Proof.Machine
end

