-- ==== Sys2Proof/Laws/PerInstr.lean ====
section
/-! SUPPORT. The family `Words`: the two fields of the operation word of each operation (R54), one lemma per
operation. -/

namespace Sys2Proof

/-- The field `OP` of a word put together from the two fields (R54). -/
theorem opField_append (op : BitVec 8) (arg : Addr) : opField (op ++ arg) = op := by
  unfold opField
  apply BitVec.eq_of_getLsbD_eq
  intro j hj
  rw [BitVec.getLsbD_extractLsb', BitVec.getLsbD_append]
  simp [hj]

/-- The field `ARG` of a word put together from the two fields (R54). -/
theorem argField_append (op : BitVec 8) (arg : Addr) : argField (op ++ arg) = arg := by
  unfold argField
  apply BitVec.eq_of_getLsbD_eq
  intro j hj
  rw [BitVec.getLsbD_extractLsb', BitVec.getLsbD_append]
  simp [hj]

end Sys2Proof

namespace Sys2Proof.Laws.Words

/-- The operation word of `i` carries its number in `OP` and its operand, or 0, in `ARG` (R54, R57). -/
def Statement (i : Instr) : Prop := opField (encode i) = i.opcode ∧ argField (encode i) = i.arg

theorem of_append (i : Instr) : Statement i := ⟨opField_append _ _, argField_append _ _⟩

theorem init : Statement .init := of_append _
theorem dchArm (a : Addr) : Statement (.dchArm a) := of_append _
theorem latchClr : Statement .latchClr := of_append _
theorem dchStart : Statement .dchStart := of_append _
theorem cchStart : Statement .cchStart := of_append _
theorem xferGo : Statement .xferGo := of_append _
theorem xferDisable : Statement .xferDisable := of_append _
theorem doneAck : Statement .doneAck := of_append _
theorem portIdle : Statement .portIdle := of_append _
theorem edgeA : Statement .edgeA := of_append _
theorem edgeB : Statement .edgeB := of_append _
theorem dchXfer : Statement .dchXfer := of_append _
theorem cchXfer : Statement .cchXfer := of_append _
theorem gateWaitIdle : Statement .gateWaitIdle := of_append _
theorem gateSetActive : Statement .gateSetActive := of_append _
theorem bufScrub (a : Addr) : Statement (.bufScrub a) := of_append _
theorem gateWaitLatch : Statement .gateWaitLatch := of_append _
theorem gateBusy : Statement .gateBusy := of_append _
theorem tsRecord : Statement .tsRecord := of_append _
theorem gateClrActive : Statement .gateClrActive := of_append _
theorem irqEnter : Statement .irqEnter := of_append _
theorem irqExit : Statement .irqExit := of_append _

end Sys2Proof.Laws.Words
end

