-- ==== Sys2Proof/Laws/Runs.lean ====
section
/-! SUPPORT. Runs of several steps: one step at a time, and one run after another. -/

namespace Sys2Proof.Machine

theorem Runs.zero (s : State) : Runs 0 s s := rfl

theorem Runs.succ {k : Nat} {s u t : State} (h : step s = .next u) (hk : Runs k u t) :
    Runs (k + 1) s t := ⟨u, h, hk⟩

theorem Runs.add {j k : Nat} {s u t : State} (h : Runs j s u) (hk : Runs k u t) :
    Runs (j + k) s t := by
  induction j generalizing s with
  | zero =>
    have hs : s = u := h
    subst hs
    simpa using hk
  | succ j ih =>
    obtain ⟨v, hv, hj⟩ := h
    rw [Nat.add_right_comm]
    exact .succ hv (ih hj)

theorem core_run_succ (M : Host.Core) (k : Nat) (s t : M.State) :
    M.run (k + 1) s = .next t ↔ ∃ u, M.step s = .next u ∧ M.run k u = .next t := by
  cases h : M.step s <;> simp [Host.Core.run, h]

/-- A run is a run of the host's machine that stops at no fault and no refusal. -/
theorem runs_iff_core_run (k : Nat) (s t : State) :
    Runs k s t ↔ Host.Core.run Sys2Proof.core k s = Host.Outcome.next t := by
  induction k generalizing s with
  | zero => exact ⟨fun h => congrArg _ h, fun h => Host.Outcome.next.inj h⟩
  | succ k ih =>
    refine Iff.trans ?_ (core_run_succ Sys2Proof.core k s t).symm
    exact exists_congr fun u => and_congr_right fun _ => ih u

/-- An invariant of every step holds along every run: the induction is made once. -/
theorem Runs.invariant {P : State → Prop} (hstep : ∀ s t, P s → step s = .next t → P t)
    {k : Nat} {s t : State} (h : Runs k s t) (hs : P s) : P t := by
  induction k generalizing s with
  | zero => exact (show s = t from h) ▸ hs
  | succ k ih =>
    obtain ⟨u, hu, hk⟩ := h
    exact ih hk (hstep s u hs hu)

/-- A step on a named turn, once the configuration and the programs are admitted. -/
theorem step_of_turn {s : State} {turn : Turn} {ts : List Turn} (hc : s.cfg.wf = true)
    (hp : s.programsOk = true) (ht : s.turns = turn :: ts) :
    step s = takeTurn turn { s with turns := ts } := by
  unfold step runStep
  simp [hc, hp, State.nextTurn, State.afterTurn, ht]

end Sys2Proof.Machine
end

