-- ==== Sys2Proof/Tests/Slice0.lean ====
section
/-! SUPPORT. Tests: ill-formed terms are refused; words written out from the operation map decode; vectors
of 95_test_vectors.md, one step each; and witnesses that the hypotheses of the statements can be met. The
expected results come from spec/; each test names its source. -/

namespace Sys2Proof.Tests

open Sys2Proof Sys2Proof.Machine

/-! ## Helpers -/

/-- The next state of an answer, if it is one. -/
def after (a : Answer) : Option State :=
  match a with
  | .next t => some t
  | .fault _ => none
  | .refused _ => none

/-- The refusal of an answer, if it is one. -/
def refusal (a : Answer) : Option Refusal :=
  match a with
  | .refused r => some r
  | .next _ => none
  | .fault _ => none

/-- One operation in a state, seen through a view of the next state. -/
def see {α : Type} (i : Instr) (s : State) (view : State → α) : Option α := (after (exec i s)).map view

/-- The state INIT leaves (R23), with `GATE.CTS` 0, for the configuration of S1. -/
def ready : State := { State.reset with hostInited := true, ecgRun := true, trace := [⟨.I, 0, 0⟩] }

/-- `ready` with `START_ALIGNED = false`. -/
def raw : State := { ready with cfg := { Config.scenario with startAligned := false } }

/-- `ready` with `BUFSIZE = 2` and another clock mask. -/
def small (mask : Word) : State := { ready with cfg := { Config.scenario with bufsize := 2, clkmask := mask } }

/-- Words in memory the caller has declared at `a`. -/
def fill (s : State) (a : Nat) (ws : List Word) : State := s.declare a ws

/-- The DataChannel about to serve word `k` of the buffer at 0x20000100, eight words of 0xFFFE. -/
def serving (k : Nat) : State :=
  { fill ready 0x20000100 (List.replicate 8 0xFFFE) with
    dchEn := true, cchEn := true, dchArmed := true, dchSrc := 0x20000100
    dchIdx := k, cchIdx := k, latA := true, ecgNext := .B, gateActive := true }

/-- The ClockChannel about to serve tick `k`, the port at `out`. -/
def pulsing (k : Nat) (out : Word) : State :=
  { serving k with latA := false, latB := true, ecgNext := .A, portOut := out }

/-- The completion pending, both channels disabled. -/
def completed : State :=
  { ready with sigDone := true, portOut := 0xFFFF, gateActive := true, now := 1000 }

/-- `GATE.ACTIVE`, `GATE.CTS` and `NOW` set, `T_LATCH` being 50. -/
def gate (active : Bool) (cts now : Nat) : State :=
  { ready with gateActive := active, gateCts := cts, now := now }

/-- The state with one turn named. -/
def turn (t : Turn) (s : State) : State := { s with turns := [t] }

/-! ## Ill-formed terms (R6, R35, R58, R59, R62) -/

theorem test_wf_scenario : Config.scenario.wf = true := by decide

theorem test_wf_odd_bufsize : { Config.scenario with bufsize := 15 }.wf = false := by decide

theorem test_wf_zero_bufsize : { Config.scenario with bufsize := 0 }.wf = false := by decide

theorem test_wf_empty_clkmask : { Config.scenario with clkmask := 0 }.wf = false := by decide

theorem test_wf_two_clock_lines : { Config.scenario with clkmask := 0x8001 }.wf = false := by decide

/-- VM7. -/
theorem test_wf_idle_clock_high : { Config.scenario with idleLevel := 0x0001 }.wf = false := by decide

/-- VM6: data lines idle high is a legal value. -/
theorem test_wf_idle_data_high : { Config.scenario with idleLevel := 0xFFFE }.wf = true := by decide

/-- VA2. -/
theorem test_wf_odd_address : Instr.wf Config.scenario (.dchArm 0x20000101) = false := by decide

/-- VA3, and the last address that fits (95_test_vectors.md 2.1). -/
theorem test_wf_address_past_top :
    Instr.wf Config.scenario (.dchArm 0xFFFFFFF2) = false ∧
    Instr.wf Config.scenario (.bufScrub 0xFFFFFFF0) = true := by decide

theorem test_wf_reserved_word : programWf [0x0100000000, 0x0A00000000] = false := by decide

theorem test_wf_event_in_program : programWf [0x0100000000, 0x1000000000] = false := by decide

theorem test_wf_handler : handlerWf (Macro.expand .handler) = true := by decide

theorem test_wf_handler_without_entry : handlerWf [.doneAck, .irqExit] = false := by decide

theorem test_wf_handler_without_return : handlerWf [.irqEnter, .doneAck] = false := by decide

theorem test_wf_handler_foreign_operation : handlerWf [.irqEnter, .xferGo, .irqExit] = false := by decide

theorem test_wf_handler_inner_return : handlerWf [.irqEnter, .irqExit, .irqExit] = false := by decide

theorem test_timing_phases_in_order :
    timingParamsOk Config.scenario = true ∧
    timingParamsOk { Config.scenario with phaseA := ⟨1, 2⟩, phaseB := ⟨1, 5⟩ } = false := by decide

/-! ## Decoding (R54, R57; words of 95_test_vectors.md 2.1 and of the operation map) -/

theorem test_decode_init : decode 0x0100000000 = some .init := by decide

theorem test_decode_dchArm : decode 0x0220000100 = some (.dchArm 0x20000100) := by decide

theorem test_decode_latchClr : decode 0x0300000000 = some .latchClr := by decide

theorem test_decode_dchStart : decode 0x0400000000 = some .dchStart := by decide

theorem test_decode_cchStart : decode 0x0500000000 = some .cchStart := by decide

theorem test_decode_xferGo : decode 0x0600000000 = some .xferGo := by decide

theorem test_decode_xferDisable : decode 0x0700000000 = some .xferDisable := by decide

theorem test_decode_doneAck : decode 0x0800000000 = some .doneAck := by decide

theorem test_decode_portIdle : decode 0x0900000000 = some .portIdle := by decide

theorem test_decode_edgeA : decode 0x1000000000 = some .edgeA := by decide

theorem test_decode_edgeB : decode 0x1100000000 = some .edgeB := by decide

theorem test_decode_dchXfer : decode 0x1200000000 = some .dchXfer := by decide

theorem test_decode_cchXfer : decode 0x1300000000 = some .cchXfer := by decide

theorem test_decode_gateWaitIdle : decode 0x2000000000 = some .gateWaitIdle := by decide

theorem test_decode_gateSetActive : decode 0x2100000000 = some .gateSetActive := by decide

theorem test_decode_bufScrub : decode 0x2220000100 = some (.bufScrub 0x20000100) := by decide

theorem test_decode_gateWaitLatch : decode 0x2300000000 = some .gateWaitLatch := by decide

theorem test_decode_gateBusy : decode 0x2400000000 = some .gateBusy := by decide

theorem test_decode_tsRecord : decode 0x2500000000 = some .tsRecord := by decide

theorem test_decode_gateClrActive : decode 0x2600000000 = some .gateClrActive := by decide

theorem test_decode_irqEnter : decode 0x2700000000 = some .irqEnter := by decide

theorem test_decode_irqExit : decode 0x2800000000 = some .irqExit := by decide

/-- The reserved words of 95_test_vectors.md 2.1. -/
theorem test_decode_reserved :
    decode 0x0000000000 = none ∧ decode 0x0A00000000 = none ∧ decode 0x1400000000 = none ∧
    decode 0x2900000000 = none ∧ decode 0xFF00000000 = none ∧ decode 0x0600000001 = none ∧
    decode 0x0100000100 = none := by decide

/-- `DCH.ARM 0x20000100` as ten digits (R54). -/
theorem test_encode_dchArm : encode (.dchArm 0x20000100) = 0x0220000100 := by decide

theorem test_decodeTableWord :
    decodeTableWord 40 0x0600000000 = some .xferGo ∧ decodeTableWord 40 0x0600000001 = none := by decide

/-! ## The text of a program (R60; program P2) -/

theorem test_program_text :
    readProgram [("buf".toList, 0x00001000)]
      ("CFG BUFSIZE=4 CLKMASK=0x8000 SKIPCLR=1 T_LATCH=50\nMEM 0x00001000: 0001 7FFF\nINIT ; first\n" ++
        "SHOW buf\n").toList =
      some ⟨{ Config.scenario with bufsize := 4, clkmask := 0x8000, skipclr := true },
        [(0x1000, [0x0001, 0x7FFF])], .init :: Macro.expand (.showBuf 0x00001000)⟩ := by decide

theorem test_program_text_refused :
    readProgram [] "CFG BUFSIZE=4 CLKMASK=0x8000 SKIPCLR=1\nINIT".toList = none ∧
    readProgram [] "CFG BUFSIZE=4 CLKMASK=0x8000 SKIPCLR=1 T_LATCH=50\nHANDLER".toList = none := by decide

/-- A `CFG` line that names the address width and the byte order (R5, R60; log entry 19). -/
theorem test_cfg_line_address_width_and_byte_order :
    (readCfg (lineTokens "CFG BUFSIZE=4 CLKMASK=0x8000 SKIPCLR=1 T_LATCH=50 AW=16 BYTE_ORDER=big".toList)).map
      (fun c => (c.aw, c.byteOrder)) = some (16, .big) ∧
    (readCfg (lineTokens "CFG BUFSIZE=4 CLKMASK=0x8000 SKIPCLR=1 T_LATCH=50".toList)).map
      (fun c => (c.aw, c.byteOrder)) = some (32, .little) := by decide

/-- A `MEM` line that runs past the top of the address space is not read (log entry 13). -/
theorem test_mem_line_past_top :
    readProgram [] "CFG BUFSIZE=4 CLKMASK=0x8000 SKIPCLR=1 T_LATCH=50\nMEM 0xFFFFFFFE: 0001".toList ≠ none ∧
    readProgram []
      "CFG BUFSIZE=4 CLKMASK=0x8000 SKIPCLR=1 T_LATCH=50\nMEM 0xFFFFFFFE: 0001 0002".toList = none := by
  decide

/-- The trace line of program P1's first data write. -/
theorem test_trace_line :
    traceLine .dchXfer { ready with portOut := 0xFFFE } = "DCH.XFER ; OUT=FFFE".toList := by decide

/-! ## Vectors: EdgeClockGenerator (95_test_vectors.md 2.2) -/

/-- VE1, VE3, VE10. -/
theorem test_edgeA_sets :
    see .edgeA ready (fun t => (t.ecgNext, t.latA, t.portOut)) = some (.B, true, 0) ∧
    see .edgeA { ready with latA := true, portOut := 0x1234 }
      (fun t => (t.ecgNext, t.latA, t.portOut)) = some (.B, true, 0x1234) := by decide

/-- VE4, VE7, VE8, VE9. -/
theorem test_edgeA_guard :
    see .edgeA { ready with ecgNext := .B } (·.latA) = some false ∧
    see .edgeA { ready with cchEn := true, latB := true } (·.latA) = some false ∧
    see .edgeA { ready with latB := true, dchEn := true } (·.latA) = some true ∧
    see .edgeA State.reset (·.latA) = some false := by decide

/-- VE2. -/
theorem test_edgeB_sets :
    see .edgeB { ready with ecgNext := .B, latA := true } (fun t => (t.ecgNext, t.latA, t.latB)) =
      some (.A, true, true) := by decide

/-- VE5, VE6. -/
theorem test_edgeB_guard :
    see .edgeB ready (·.latB) = some false ∧
    see .edgeB { ready with ecgNext := .B, dchEn := true, latA := true } (·.latB) = some false := by decide

/-! ## Vectors: DataChannel (2.3) -/

/-- VA1, VA7 and the last address that fits. -/
theorem test_dchArm_binds :
    see (.dchArm 0x20000100) ready (fun t => (t.dchSrc, t.dchIdx)) = some (0x20000100, 0) ∧
    see (.dchArm 0x20000200) { ready with dchSrc := 0x20000100 } (·.dchSrc) = some 0x20000200 ∧
    see (.dchArm 0xFFFFFFF0) ready (·.dchSrc) = some 0xFFFFFFF0 := by decide

/-- VA2 to VA6. -/
theorem test_dchArm_refused :
    refusal (exec (.dchArm 0x20000101) ready) = some .misalignedBuffer ∧
    refusal (exec (.dchArm 0xFFFFFFF2) ready) = some .bufferPastTop ∧
    refusal (exec (.dchArm 0x20000100) { ready with dchEn := true }) = some .armWhileEnabled ∧
    refusal (exec (.dchArm 0x20000100) { ready with cchEn := true }) = some .armWhileEnabled ∧
    refusal (exec (.dchArm 0x20000100) State.reset) = some .beforeInit := by decide

/-- VX9. -/
theorem test_dchStart_stale_latch :
    see .dchStart { raw with latA := true } (fun t => (t.dchEn, t.dchTriggered)) =
      some (true, true) := by decide

/-- VX8, VX10. -/
theorem test_dchStart_refused :
    refusal (exec .dchStart ready) = some .useXferGo ∧
    refusal (exec .dchStart { raw with dchEn := true }) = some .startWhileEnabled := by decide

/-- VX1, VX2, VQ5: the first service and the last of a pass of eight. -/
theorem test_dchXfer_serves :
    see .dchXfer (serving 0) (fun t => (t.portOut, t.latA, t.dchIdx, t.dchEn)) =
      some (0xFFFE, false, 1, true) ∧
    see .dchXfer (serving 0) (·.trace.getLast?) = some (some ⟨.D, 0, 0xFFFE⟩) ∧
    see .dchXfer (serving 7) (fun t => (t.portOut, t.latA, t.dchIdx, t.dchEn)) =
      some (0xFFFE, false, 0, false) ∧
    see .dchXfer (serving 7) (·.sigDone) = some false := by decide

/-- VX3, VX4, VX5, VX6. -/
theorem test_dchXfer_small_and_held :
    see .dchXfer { fill (small 0x0100) 0x1000 [0x00AA] with
        dchEn := true, dchArmed := true, dchSrc := 0x1000, latA := true }
      (fun t => (t.portOut, t.dchIdx, t.dchEn)) = some (0x00AA, 0, false) ∧
    see .dchXfer { serving 0 with latA := false } (·.dchIdx) = some 0 ∧
    see .dchXfer { serving 0 with dchEn := false } (·.dchIdx) = some 0 ∧
    see .dchXfer { fill (serving 0) 0x20000100 [0x0002] with portOut := 0xFFFF, raced := [] }
      (·.portOut) = some 0x0002 := by decide

/-! ## Vectors: ClockChannel and joint operations (2.4) -/

/-- The other start of `START3`, and VG9. -/
theorem test_cchStart :
    see .cchStart raw (·.cchEn) = some true ∧
    refusal (exec .cchStart ready) = some .useXferGo ∧
    refusal (exec .cchStart { raw with cchEn := true }) = some .startWhileEnabled := by decide

/-- VK1, VK2, VK4. -/
theorem test_cchXfer_pulses :
    see .cchXfer (pulsing 0 0xFFFE) (fun t => (t.latB, t.cchIdx, t.cchEn, t.sigDone)) =
      some (false, 1, true, false) ∧
    see .cchXfer (pulsing 7 0xFFFE) (fun t => (t.latB, t.cchIdx, t.cchEn, t.sigDone)) =
      some (false, 0, false, true) ∧
    see .cchXfer (pulsing 7 0xFFFE) (·.trace.getLast?) = some (some ⟨.C, 7, 0xFFFF⟩) ∧
    see .cchXfer (pulsing 1 0x0003) (fun t => (t.portOut, t.cchIdx)) = some (0x0003, 2) := by decide

/-- VK3, VK5, VK6, VK7. -/
theorem test_cchXfer_masks_and_guard :
    see .cchXfer { small 0x0100 with cchEn := true, latB := true, portOut := 0x00AA }
      (fun t => (t.portOut, t.cchIdx, t.cchEn, t.sigDone)) = some (0x01AA, 0, false, true) ∧
    see .cchXfer { small 0x8000 with cchEn := true, latB := true, portOut := 0x7FFF }
      (·.portOut) = some 0xFFFF ∧
    see .cchXfer { pulsing 0 0xFFFE with cchEn := false } (·.portOut) = some 0xFFFE ∧
    see .cchXfer { pulsing 0 0xFFFE with latB := false } (·.portOut) = some 0xFFFE := by decide

/-- VG9, VG10. -/
theorem test_latchClr :
    refusal (exec .latchClr ready) = some .useXferGo ∧
    see .latchClr { raw with latA := true, latB := true } (fun t => (t.latA, t.latB)) =
      some (false, false) := by decide

/-- VG1, VG2, VG3. -/
theorem test_xferGo_starts :
    see .xferGo { ready with latA := true, latB := true }
      (fun t => (t.latA, t.latB, t.dchEn, t.cchEn)) = some (false, false, true, true) ∧
    see .xferGo { ready with ecgNext := .B } (·.dchEn) = some false ∧
    see .xferGo { raw with ecgNext := .B } (fun t => (t.dchEn, t.cchEn)) = some (true, true) := by decide

/-- VG4, VG5, VG6. -/
theorem test_xferGo_refused :
    refusal (exec .xferGo { ready with dchEn := true }) = some .startWhileEnabled ∧
    refusal (exec .xferGo { ready with cchEn := true }) = some .startWhileEnabled ∧
    refusal (exec .xferGo completed) = some .completionNotAcknowledged ∧
    refusal (exec .xferGo State.reset) = some .beforeInit := by decide

/-- VG7, VG8. -/
theorem test_xferDisable :
    see .xferDisable ready id = some { ready with fgPos := 1 } ∧
    refusal (exec .xferDisable { ready with dchEn := true }) = some .noAbortPath := by decide

/-! ## Vectors: port and completion signaler (2.5, 2.6) -/

/-- VM1 to VM4. -/
theorem test_port_sides :
    wholeSide 0xFFFF 0x1234 = 0x1234 ∧ setSide 0xFFFE 0x0001 = 0xFFFF ∧
    setSide 0x8000 0x8000 = 0x8000 ∧ setSide 0x0000 0x0010 = 0x0010 := by decide

/-- VM5, VM6, VM9. -/
theorem test_portIdle :
    see .portIdle completed (fun t => (t.portOut, t.trace.getLast?)) = some (0, some ⟨.I, 0, 0⟩) ∧
    see .portIdle { completed with cfg := { Config.scenario with idleLevel := 0xFFFE } } (·.portOut) =
      some 0xFFFE ∧
    see .portIdle (serving 0) (·.portOut) = some 0 := by decide

/-- VQ1, VQ2. -/
theorem test_doneAck :
    see .doneAck completed (·.sigDone) = some false ∧
    see .doneAck ready (·.sigDone) = some false := by decide

/-- The line decode of 2.5: rises at the second and the fourth write. -/
theorem test_line_decode :
    let es : List PortWrite := [⟨.D, 0, 2⟩, ⟨.C, 0, 3⟩, ⟨.D, 1, 4⟩, ⟨.C, 1, 5⟩, ⟨.I, 0, 0⟩]
    clockLine Config.scenario = 0 ∧ clockRises 0 0 es = [3, 5] ∧ lineBits 0 0 es 1 = [true, false] ∧
      lineBits 0 0 es 2 = [false, true] ∧ lineBits 0 0 es 3 = [false, false] := by decide

/-! ## Vectors: host state (2.7) -/

/-- VH1: the fields the spec fixes. -/
theorem test_init :
    let s := { State.reset with now := 7, portOut := 0x5555, dchEn := true, sigDone := true }
    see .init s (fun t => (t.ecgRun, t.ecgNext, t.hostInited, t.now)) = some (true, .A, true, 7) ∧
    see .init s (fun t => (t.dchEn, t.sigDone, t.portOut)) = some (false, false, 0) ∧
    see .init s (·.trace) = some [⟨.I, 0, 0⟩] := by decide

/-- VH2. -/
theorem test_init_twice : refusal (exec .init ready) = some .initTwice := by decide

/-- VH3, VH4. -/
theorem test_gateWaitIdle :
    see .gateWaitIdle (gate false 0 0) (·.fgPos) = some 1 ∧
    see .gateWaitIdle (gate true 0 0) (·.fgPos) = some 0 := by decide

/-- R122. -/
theorem test_gateSetActive : see .gateSetActive (gate false 0 0) (·.gateActive) = some true := by decide

/-- VH5, VH6. -/
theorem test_bufScrub_clears :
    see (.bufScrub 0x1000) { fill ready 0x1000 [0xFFFF, 0x0001, 0x0000, 0xFFFE] with
        cfg := { Config.scenario with bufsize := 8 } } (fun t => t.bufferWords 0x1000) =
      some [0xFFFE, 0x0000, 0x0000, 0xFFFE] ∧
    see (.bufScrub 0x1000) { fill ready 0x1000 [0x8001, 0x7FFF] with
        cfg := { Config.scenario with bufsize := 4, clkmask := 0x8000 } } (fun t => t.bufferWords 0x1000) =
      some [0x0001, 0x7FFF] := by decide

/-- VH7, VH8. -/
theorem test_bufScrub_skip_and_refused :
    see (.bufScrub 0x1000) { fill ready 0x1000 [0xFFFF, 0x0001] with
        cfg := { Config.scenario with bufsize := 4, skipclr := true } } (fun t => t.bufferWords 0x1000) =
      some [0xFFFF, 0x0001] ∧
    refusal (exec (.bufScrub 0x20000101) ready) = some .badBuffer := by decide

/-- VH12, VH13, VH14. -/
theorem test_gateWaitLatch :
    see .gateWaitLatch (gate true 1000 2000) (·.fgPos) = some 0 ∧
    see .gateWaitLatch (gate false 1000 1049) (·.fgPos) = some 0 ∧
    see .gateWaitLatch (gate false 1000 1050) (·.fgPos) = some 1 := by decide

/-- VH9, VH10, VH11, VH16. -/
theorem test_gateBusy :
    see .gateBusy (gate false 1000 1049) (·.busyResults) = some [true] ∧
    see .gateBusy (gate false 1000 1050) (·.busyResults) = some [false] ∧
    see .gateBusy (gate true 0 100000) (·.busyResults) = some [true] ∧
    see .gateBusy { gate false 3 3 with cfg := { Config.scenario with tLatch := 0 } } (·.busyResults) =
      some [false] := by decide

/-- VH15. -/
theorem test_tsRecord : see .tsRecord completed (·.gateCts) = some 1000 := by decide

/-- R132. -/
theorem test_gateClrActive : see .gateClrActive completed (·.gateActive) = some false := by decide

/-- VH17. -/
theorem test_irqEnter_enters : see .irqEnter completed (·.hostInh) = some true := by decide

/-- VH18, VH19: no entry, the state stays; before INIT the operation is refused (R59 (d), R171). -/
theorem test_irqEnter_guard :
    see .irqEnter { completed with hostInh := true } id = some { completed with hostInh := true } ∧
    see .irqEnter ready id = some ready ∧
    refusal (exec .irqEnter { State.reset with sigDone := true }) = some .beforeInit := by decide

/-- R148: the return after the handler's steps, and not before them. -/
theorem test_irqExit :
    see .irqExit { completed with hostInh := true, ihPos := 5 } (fun t => (t.hostInh, t.ihPos)) =
      some (false, 0) ∧
    see .irqExit { completed with hostInh := true, ihPos := 4 } (fun t => (t.hostInh, t.ihPos)) =
      some (true, 4) := by decide

/-- VQ3: with `SIG.DONE` still up after the return, the entry is enabled again. -/
theorem test_irqExit_level :
    see .irqExit { completed with hostInh := true, ihPos := 5 } (fun t => see .irqEnter t (·.hostInh)) =
      some (some true) := by decide

/-! ## Memory (R34, R35) -/

/-- Word `k` is `byte[2k] | (byte[2k+1] << 8)`; a write of the unlisted value removes the entry. -/
theorem test_byte_order :
    (Memory.writeWord .little [] 0x10 0x1234) = [(0x10, 0x34), (0x11, 0x12)] ∧
    (Memory.writeWord .big [] 0x10 0x1234) = [(0x10, 0x12), (0x11, 0x34)] ∧
    (Memory.writeWord .little [(0x10, 0x34), (0x11, 0x12)] 0x10 0) = [] := by decide

/-- A store at the last word of the address space, and one past it. -/
theorem test_caller_store_bounds :
    (after (step (turn (.callerStore 0xFFFFFFFE 0x1234) ready))).map (fun t => t.readWord 0xFFFFFFFE) =
      some 0x1234 ∧
    refusal (step (turn (.callerStore 0xFFFFFFFF 0x1234) ready)) = some .noSuchAddress := by decide

/-- A byte stored at an odd address is the high half of its word (R34). -/
theorem test_caller_byte :
    (after (step (turn (.callerStoreByte 0x1001 0x12) (fill ready 0x1000 [0xABCD])))).map
      (fun t => t.readWord 0x1000) = some 0x12CD := by decide

/-- Bytes the caller declares while the DataChannel is stuck on them let it go on (log entry 9). -/
theorem test_declare_unsticks :
    see .dchXfer { serving 0 with owned := [] } (·.dchIdx) = some 0 ∧
    (after (step { serving 0 with
      owned := [], turns := [.callerOwn 0x20000100 [0x0002]] })).map
        (fun t => see .dchXfer t (·.dchIdx)) = some (some 1) := by decide

/-! ## The step -/

/-- A placed word is the next one performed, whichever agent it belongs to. -/
theorem test_withFetchWord :
    (after (step (ready.withFetchWord 40 0x0220000100))).map (·.dchSrc) = some 0x20000100 ∧
    (after (step (ready.withFetchWord 40 0x1100000000))).map (·.latB) = some true ∧
    (after (step (completed.withFetchWord 40 0x2700000000))).map (·.hostInh) = some true ∧
    (after (step (completed.withFetchWord 40 0x0800000000))).map (·.sigDone) = some false := by decide

/-- R171, R58: from power-on INIT runs, any other host operation is refused, a reserved word is refused. -/
theorem test_withFetchWord_from_reset :
    (after (step (State.reset.withFetchWord 40 0x0100000000))).map (·.hostInited) = some true ∧
    refusal (step (State.reset.withFetchWord 40 0x0600000000)) = some .beforeInit ∧
    refusal (step (State.reset.withFetchWord 40 0x0A00000000)) = some .reservedOperation := by decide

/-! ## Witnesses: the hypotheses of each statement can be met, each clause at a boundary value -/

/-- A foreground turn with a program of one word. -/
def issuing (w : OpWord) (s : State) : State :=
  { s with fgProg := [w], fgPos := 0, turns := [.agent .foreground] }

/-- An interrupt turn with a handler of one word, running. -/
def handling (w : OpWord) (s : State) : State :=
  { s with ihProg := [w], ihPos := 0, hostInh := true, turns := [.agent .interrupt] }

/-- The words of the buffer `serving` reads, and a transfer of one word about to begin. -/
def oneWord : State :=
  { fill (small 0x0001) 0x1000 [0x00AA] with
    dchEn := true, cchEn := true, dchArmed := true, dchSrc := 0x1000
    turns := ticksTurns 1 }

/-- The foreground about to `show` the buffer of one word at the top of the address space. -/
def showing : State :=
  { fill (small 0x0001) 0xFFFFFFFE [0xFFFF] with
    fgProg := assemble (Macro.expand (.showBuf 0xFFFFFFFE))
    turns := List.replicate 5 (.agent .foreground) ++ ticksTurns 1 ++
      List.replicate 6 (.agent .interrupt) ++ [.time 50, .agent .foreground] }

/-- The middle of an aligned transfer of eight words: tick 0 done, the DataChannel about to serve word 1. -/
def midTransfer : State :=
  { serving 1 with
    portOut := 0xFFFF, trace := [⟨.I, 0, 0⟩, ⟨.D, 0, 0xFFFE⟩, ⟨.C, 0, 0xFFFF⟩]
    raced := [], turns := [.agent .dataChannel] }

theorem witness_EncodeOfDecode : decode 0x02FFFFFFF0 = some (.dchArm 0xFFFFFFF0) := by decide

theorem witness_ReservedWordsAreRefused :
    (issuing 0x2900000000 ready).cfg.wf = true ∧ 0x2900000000 ∈ (issuing 0x2900000000 ready).fgProg ∧
    decode 0x2900000000 = none ∧
    0x1000000000 ∈ (handling 0x1000000000 ready).ihProg ∧ decode 0x1000000000 = some .edgeA ∧
    Instr.edgeA.opClass = .ev := by decide

theorem witness_StepRunsTheHostsNextOperation :
    let s := issuing 0x0220000100 ready
    let u := handling 0x0800000000 completed
    let v := { turn (.agent .interrupt) completed with ihProg := assemble (Macro.expand .handler) }
    (s.cfg.wf = true ∧ s.programsOk = true ∧ decode 0x0220000100 = some (.dchArm 0x20000100) ∧
      s.turns = .agent .foreground :: [] ∧ s.hostInh = false ∧
      s.fgProg[s.fgPos]? = some 0x0220000100 ∧ (Instr.dchArm 0x20000100).agent = .foreground) ∧
    (u.cfg.wf = true ∧ u.programsOk = true ∧ decode 0x0800000000 = some .doneAck ∧
      u.turns = .agent .interrupt :: [] ∧ u.hostInh = true ∧
      u.ihProg[u.ihPos]? = some 0x0800000000 ∧ Instr.doneAck.agent = .interrupt) ∧
    (v.cfg.wf = true ∧ v.programsOk = true ∧ decode 0x2700000000 = some .irqEnter ∧
      v.turns = .agent .interrupt :: [] ∧ v.hostInh = false ∧
      v.ihProg[v.ihPos]? = some 0x2700000000) := by decide

theorem witness_StepRunsTheHardwaresNextEvent :
    let s := ready
    s.cfg.wf = true ∧ s.programsOk = true ∧
    (turn (.agent .generator) s).turns = .agent .generator :: [] ∧ s.ecgNext = .A ∧
    (pulsing 0 0).cfg.wf = true ∧ (pulsing 0 0).programsOk = true ∧ (serving 0).ecgNext = .B ∧
    (turn (.agent .dataChannel) (serving 0)).turns = .agent .dataChannel :: [] ∧
    (turn (.agent .clockChannel) (pulsing 0 0)).turns = .agent .clockChannel :: [] := by decide

theorem witness_OperationOfAnotherAgentIsRefused :
    let s := issuing 0x0800000000 ready
    let u := handling 0x0600000000 ready
    (s.cfg.wf = true ∧ s.programsOk = true ∧ decode 0x0800000000 = some .doneAck ∧
      s.turns = .agent .foreground :: [] ∧ s.hostInh = false ∧
      s.fgProg[s.fgPos]? = some 0x0800000000 ∧ Instr.doneAck.agent ≠ .foreground) ∧
    (u.cfg.wf = true ∧ u.programsOk = true ∧ decode 0x0600000000 = some .xferGo ∧
      u.turns = .agent .interrupt :: [] ∧ u.hostInh = true ∧
      u.ihProg[u.ihPos]? = some 0x0600000000 ∧ Instr.xferGo.agent ≠ .interrupt) := by decide

theorem witness_AgentWithoutOperationMakesNoStep :
    let s := turn (.agent .foreground) ready
    let u := turn (.agent .interrupt) { ready with ihPos := 1 }
    (s.cfg.wf = true ∧ s.programsOk = true ∧ s.turns = .agent .foreground :: [] ∧
      s.fgProg.length ≤ s.fgPos) ∧
    ({ s with hostInh := true }.hostInh = true) ∧
    (u.cfg.wf = true ∧ u.programsOk = true ∧ u.turns = .agent .interrupt :: [] ∧ u.hostInh = false ∧
      u.ihProg[u.ihPos]? ≠ some (encode .irqEnter)) := by decide

theorem witness_InvalidConfigurationHasNoRun :
    refusal (step { ready with cfg := { Config.scenario with clkmask := 0 } }) = some .badConfig ∧
    (after (step (turn (.time 0) ready))).isSome = true := by decide

theorem witness_UnnamedTurnIsFree : State.reset.turns = [] := by decide

theorem witness_TimeOnlyGrows :
    let s := turn (.time 0) ready
    let u := turn (.agent .generator) ready
    (s.cfg.wf = true ∧ s.programsOk = true ∧ s.turns = .time 0 :: []) ∧
    (step s = .next ready ∧ step u = .next { ready with latA := true, ecgNext := .B }) ∧
    u.Performs .edgeA := by
  refine ⟨by decide, ⟨rfl, rfl⟩, .generator, encode .edgeA, rfl, rfl, by decide⟩

theorem witness_EdgeASetsItsLatch :
    (ready.hostInited = true ∧ ready.ecgRun = true ∧ ready.ecgNext = .A ∧
      ¬ (ready.dchEn = true ∧ ready.latA = true) ∧ ¬ (ready.cchEn = true ∧ ready.latB = true)) ∧
    ((serving 0).dchEn = true ∧ (serving 0).latA = true) ∧
    ((pulsing 0 0).cchEn = true ∧ (pulsing 0 0).latB = true) ∧
    (serving 0).ecgNext = .B ∧ State.reset.hostInited = false ∧ State.reset.ecgRun = false := by decide

theorem witness_EdgeBSetsItsLatch :
    let s := { ready with ecgNext := .B }
    (s.hostInited = true ∧ s.ecgRun = true ∧ s.ecgNext = .B ∧
      ¬ (s.dchEn = true ∧ s.latA = true) ∧ ¬ (s.cchEn = true ∧ s.latB = true)) ∧
    ((serving 0).dchEn = true ∧ (serving 0).latA = true) ∧ ready.ecgNext = .A := by decide

theorem witness_HardwareNeverDeadlocks :
    ready.hostInited = true ∧ ready.ecgRun = true ∧
    { serving 0 with owned := [] }.dchReadAdmitted = false := by decide

/-- The last address that fits, the first that does not, and an odd one. -/
theorem witness_DchArmBindsTheBuffer :
    State.reset.hostInited = false ∧
    (ready.hostInited = true ∧ ready.dchEn = false ∧ ready.cchEn = false) ∧
    ((0xFFFFFFF0 : Addr).toNat % 2 = 0 ∧
      (0xFFFFFFF0 : Addr).toNat + ready.cfg.bufsize ≤ 2 ^ ready.cfg.aw) ∧
    ((0xFFFFFFF2 : Addr).toNat % 2 = 0 ∧
      2 ^ ready.cfg.aw < (0xFFFFFFF2 : Addr).toNat + ready.cfg.bufsize) ∧
    (0xFFFFFFFF : Addr).toNat % 2 ≠ 0 ∧
    ((serving 0).hostInited = true ∧ (serving 0).dchEn = true) := by decide

theorem witness_DchStartEnablesTheChannel :
    State.reset.hostInited = false ∧ ((serving 0).hostInited = true ∧ (serving 0).dchEn = true) ∧
    (ready.hostInited = true ∧ ready.dchEn = false ∧ ready.cfg.startAligned = true) ∧
    (raw.hostInited = true ∧ raw.dchEn = false ∧ raw.cfg.startAligned = false) := by decide

/-- The first word of a pass and the last, with no race, and the last with two racing stores. -/
theorem witness_DchXferSendsTheNextWord :
    ∀ s ∈ [{ serving 0 with raced := [] }, { serving 7 with raced := [] },
        { serving 7 with raced := [(0x2000010E, 0x0002), (0x2000010E, 0x0004)] }],
      s.hostInited = true ∧ s.dchEn = true ∧ s.latA = true ∧ s.dchArmed = true ∧
        s.owns (s.dchSrc.toNat + 2 * s.dchIdx) = true ∧
        s.owns (s.dchSrc.toNat + 2 * s.dchIdx + 1) = true := by decide

theorem witness_DchXferIsHeld :
    (ready.dchEn = false ∧ ready.latA = false) ∧
    (let s := { serving 0 with owned := [] };
      s.dchEn = true ∧ s.latA = true ∧ s.owns (s.dchSrc.toNat + 2 * s.dchIdx) = false) ∧
    (let s := { serving 0 with owned := [⟨0x20000100, 1⟩] };
      s.dchEn = true ∧ s.latA = true ∧ s.owns (s.dchSrc.toNat + 2 * s.dchIdx) = true ∧
        s.owns (s.dchSrc.toNat + 2 * s.dchIdx + 1) = false) ∧
    (let s := { serving 0 with dchArmed := false };
      s.dchEn = true ∧ s.latA = true ∧ s.dchArmed = false) := by decide

theorem witness_RacingStoreGivesOldOrNewWord :
    let s := { serving 7 with
      raced := [], turns := [.callerStore 0x2000010E 0x0002, .agent .dataChannel] }
    s.cfg.wf = true ∧ s.programsOk = true ∧ s.mem.wf ∧ s.hostInited = true ∧ s.dchEn = true ∧
      s.latA = true ∧ s.dchArmed = true ∧ 0x2000010E = s.dchSrc.toNat + 2 * s.dchIdx ∧
      0x2000010E % 2 = 0 ∧ 0x2000010E + 2 ≤ 2 ^ s.cfg.aw ∧ s.owns 0x2000010E = true ∧
      s.owns (0x2000010E + 1) = true ∧ s.raced = [] ∧
      s.turns = .callerStore 0x2000010E 0x0002 :: .agent .dataChannel :: [] := by decide

theorem witness_CchStartEnablesTheChannel :
    State.reset.hostInited = false ∧ ((serving 0).hostInited = true ∧ (serving 0).cchEn = true) ∧
    (ready.hostInited = true ∧ ready.cchEn = false ∧ ready.cfg.startAligned = true) ∧
    (raw.hostInited = true ∧ raw.cchEn = false ∧ raw.cfg.startAligned = false) := by decide

theorem witness_CchXferPulsesTheClock :
    ((pulsing 7 0).hostInited = true ∧ (pulsing 7 0).cchEn = true ∧ (pulsing 7 0).latB = true ∧
      (pulsing 7 0).cchIdx + 1 = (pulsing 7 0).cfg.n) ∧
    ((serving 0).latB = false ∧ ready.cchEn = false ∧ State.reset.hostInited = false) := by decide

theorem witness_LatchClrClearsBothLatches :
    State.reset.hostInited = false ∧ (ready.hostInited = true ∧ ready.cfg.startAligned = true) ∧
    (raw.hostInited = true ∧ raw.cfg.startAligned = false) := by decide

theorem witness_XferGoStartsBothChannels :
    State.reset.hostInited = false ∧ ((serving 0).hostInited = true ∧ (serving 0).dchEn = true) ∧
    (completed.hostInited = true ∧ completed.dchEn = false ∧ completed.cchEn = false ∧
      completed.sigDone = true) ∧
    (ready.hostInited = true ∧ ready.dchEn = false ∧ ready.cchEn = false ∧ ready.sigDone = false ∧
      ready.ecgNext = .A) ∧
    (let s := { raw with ecgNext := .B };
      s.hostInited = true ∧ s.dchEn = false ∧ s.cchEn = false ∧ s.sigDone = false ∧
        s.cfg.startAligned = false) ∧
    (let s := { ready with ecgNext := .B };
      s.hostInited = true ∧ s.dchEn = false ∧ s.cchEn = false ∧ s.sigDone = false ∧
        s.cfg.startAligned = true ∧ s.ecgNext = .B) := by decide

theorem witness_XferDisableChangesNothing :
    State.reset.hostInited = false ∧ ((pulsing 0 0).hostInited = true ∧ (pulsing 0 0).cchEn = true) ∧
    (ready.hostInited = true ∧ ready.dchEn = false ∧ ready.cchEn = false) := by decide

/-- INIT, PORT.IDLE, DONE.ACK, GATE.SETACTIVE, TS.RECORD and GATE.CLRACTIVE ask for one value of
`HOST.INITED` only. -/
theorem witness_hostInited : ready.hostInited = true ∧ State.reset.hostInited = false := by decide

theorem witness_PortSidesActLaneByLane : 0 < 16 ∧ 15 < 16 := by decide

theorem witness_GateWaitIdleTestsTheActiveFlag :
    State.reset.hostInited = false ∧
    ((gate false 0 0).hostInited = true ∧ (gate false 0 0).gateActive = false) ∧
    ((gate true 0 0).hostInited = true ∧ (gate true 0 0).gateActive = true) := by decide

/-- The last buffer that fits, one past it, and an odd address; with the scrub skipped and without. -/
theorem witness_BufScrubClearsTheClockBits :
    State.reset.hostInited = false ∧
    (ready.hostInited = true ∧ (0xFFFFFFF0 : Addr).toNat % 2 = 0 ∧
      (0xFFFFFFF0 : Addr).toNat + ready.cfg.bufsize ≤ 2 ^ ready.cfg.aw ∧ ready.cfg.skipclr = false ∧
      ready.mem.wf) ∧
    (let s := { ready with cfg := { Config.scenario with skipclr := true } };
      s.hostInited = true ∧ (0xFFFFFFF0 : Addr).toNat + s.cfg.bufsize ≤ 2 ^ s.cfg.aw ∧
        s.cfg.skipclr = true) ∧
    (2 ^ ready.cfg.aw < (0xFFFFFFF2 : Addr).toNat + ready.cfg.bufsize ∧
      (0x00000001 : Addr).toNat % 2 ≠ 0) := by decide

theorem witness_BufScrubClearsTheClockBits_twice :
    ∃ t u, (fill (small 0x0001) 0x1000 [0xFFFF]).mem.wf ∧
      exec (.bufScrub 0x1000) (fill (small 0x0001) 0x1000 [0xFFFF]) = .next t ∧
      exec (.bufScrub 0x1000) t = .next u := ⟨_, _, by decide, rfl, rfl⟩

/-- The interval just over, and one short of it; also for GATE.BUSY. -/
theorem witness_GateWaitLatchWaitsOutTheInterval :
    State.reset.hostInited = false ∧
    (let s := gate false 1000 1050;
      s.hostInited = true ∧ s.gateActive = false ∧ s.cfg.tLatch ≤ s.now - s.gateCts) ∧
    (let s := gate false 1000 1049;
      s.hostInited = true ∧ s.now - s.gateCts < s.cfg.tLatch) ∧
    ((gate true 0 5000).hostInited = true ∧ (gate true 0 5000).gateActive = true) := by decide

theorem witness_TsRecordIsTheOnlyTimestampWriter :
    (completed.hostInited = true ∧
      exec .doneAck completed = .next { completed with sigDone := false, ihPos := 1 } ∧
      Instr.doneAck ≠ .tsRecord) ∧ State.reset.hostInited = false :=
  ⟨⟨by decide, rfl, by decide⟩, by decide⟩

theorem witness_PhaseFollowsTheGate :
    ((gate false 0 50).hostInited = true ∧ (gate false 0 50).phase = .idle) ∧
    ((gate false 0 49).phase = .latching ∧ (gate true 0 50).phase = .active) ∧
    0 < (gate false 0 49).cfg.tLatch := by decide

theorem witness_IrqEnterTakesTheInterrupt :
    State.reset.hostInited = false ∧
    (completed.hostInited = true ∧ completed.sigDone = true ∧ completed.hostInh = false) ∧
    (ready.hostInited = true ∧ ready.sigDone = false) ∧
    { completed with hostInh := true }.hostInh = true := by decide

theorem witness_IrqExitReturnsFromTheInterrupt :
    State.reset.hostInited = false ∧
    (let s := { completed with hostInh := true, ihPos := 5 };
      s.hostInited = true ∧ s.hostInh = true ∧ s.ihPos + 1 = s.ihProg.length) ∧
    (let s := { completed with hostInh := true, ihPos := 4 };
      s.hostInited = true ∧ s.ihPos + 1 ≠ s.ihProg.length) := by decide

theorem witness_HandlerRunsItsFourSteps :
    let s := { completed with turns := List.replicate 6 (.agent .interrupt) }
    s.cfg.wf = true ∧ s.programsOk = true ∧ s.hostInited = true ∧ s.sigDone = true ∧
      s.hostInh = false ∧ s.ihProg = assemble (Macro.expand .handler) ∧ s.ihPos = 0 ∧
      s.turns = List.replicate 6 (.agent .interrupt) ++ [] := by decide

theorem witness_HandlerWithoutAckIsEnteredAgain :
    let s := { completed with
      ihProg := assemble [.irqEnter, .portIdle, .tsRecord, .gateClrActive, .irqExit]
      turns := List.replicate 5 (.agent .interrupt) }
    s.cfg.wf = true ∧ s.programsOk = true ∧ s.hostInited = true ∧ s.sigDone = true ∧
      s.hostInh = false ∧ s.dchEn = false ∧ s.cchEn = false ∧
      s.ihProg = assemble [.irqEnter, .portIdle, .tsRecord, .gateClrActive, .irqExit] ∧
      s.ihPos = 0 ∧ s.turns = List.replicate 5 (.agent .interrupt) ++ [] := by decide

theorem witness_NothingRunsBeforeInit :
    State.reset.hostInited = false ∧ (Instr.irqEnter.opClass ≠ .ev ∧ Instr.irqEnter ≠ .init) ∧
      Instr.edgeA.opClass = .ev := by decide

/-- A store by the caller, and a scrub that changes memory. -/
theorem witness_OnlyTheHostWritesMemory :
    (∃ t, step (turn (.callerStore 0x1000 0x0001) ready) = .next t ∧ t.mem ≠ ready.mem) ∧
    (∃ t, step (issuing 0x2200001000 (fill (small 0x0001) 0x1000 [0xFFFF])) = .next t ∧
      t.mem ≠ (fill (small 0x0001) 0x1000 [0xFFFF]).mem) :=
  ⟨⟨_, rfl, by decide⟩, ⟨_, rfl, by decide⟩⟩

/-- Steps that change what the statements on writers speak of: the last service of each channel, the
completion, and the handler's entry. -/
theorem witness_writers :
    (∃ t, step (turn (.agent .dataChannel) (serving 7)) = .next t ∧ t.latA ≠ (serving 7).latA ∧
      t.dchEn ≠ (serving 7).dchEn ∧ t.dchIdx ≠ (serving 7).dchIdx) ∧
    (∃ t, step (turn (.agent .clockChannel) (pulsing 7 0)) = .next t ∧
      (pulsing 7 0).sigDone = false ∧ t.sigDone = true ∧ (pulsing 7 0).cchIdx + 1 = (pulsing 7 0).cfg.n ∧
      (turn (.agent .clockChannel) (pulsing 7 0)).Performs .cchXfer) ∧
    (∃ t, step (turn (.agent .interrupt) completed) = .next t ∧ t.hostInh ≠ completed.hostInh) := by
  refine ⟨⟨_, rfl, by decide, by decide, by decide⟩,
    ⟨_, rfl, by decide, by decide, by decide, .clockChannel, encode .cchXfer, rfl, rfl, by decide⟩,
    ⟨_, rfl, by decide⟩⟩

theorem midTransfer_sound : midTransfer.Sound := by constructor <;> decide

theorem witness_EveryStepKeepsTheStateSound :
    midTransfer.Sound ∧ ∃ t, step midTransfer = .next t ∧ t.dchIdx = 2 :=
  ⟨midTransfer_sound, _, rfl, rfl⟩

theorem midTransfer_aligned : midTransfer.Aligned :=
  ⟨midTransfer_sound, by decide,
    fun _ => .inr (.inl ⟨by decide, by decide, by decide, by decide, by decide⟩),
    by decide, by decide, by decide⟩

/-- In the middle of a transfer, where every clause of the invariant says something. -/
theorem witness_EveryStepKeepsTheTransferAligned :
    midTransfer.Aligned ∧ midTransfer.hostInited = true ∧ midTransfer.cchEn = true ∧
      ∃ t, step midTransfer = .next t := ⟨midTransfer_aligned, by decide, by decide, _, rfl⟩

theorem witness_PowerOnIsSoundAndAligned :
    configValid Config.scenario = true ∧ Config.scenario.startAligned = true := by decide

theorem witness_TransferSendsEveryWord :
    let s := oneWord
    s.cfg.wf = true ∧ s.programsOk = true ∧ s.hostInited = true ∧ s.ecgRun = true ∧ s.ecgNext = .A ∧
      s.latA = false ∧ s.latB = false ∧ s.dchEn = true ∧ s.cchEn = true ∧ s.dchIdx = 0 ∧
      s.cchIdx = 0 ∧ s.dchArmed = true ∧ s.ownsBuffer s.dchSrc.toNat = true ∧ s.raced = [] ∧
      s.turns = ticksTurns s.cfg.n ++ [] := by decide

theorem witness_ShowReturnsIdle :
    let s := showing
    let buf : Addr := 0xFFFFFFFE
    (s.cfg.wf = true ∧ s.programsOk = true ∧ s.hostInited = true ∧ s.mem.wf ∧ s.ecgRun = true ∧
      s.ecgNext = .A ∧ s.dchEn = false ∧ s.cchEn = false ∧ s.dchIdx = 0 ∧ s.cchIdx = 0) ∧
    (s.sigDone = false ∧ s.gateActive = false ∧ s.hostInh = false ∧ s.raced = [] ∧
      s.ihProg = assemble (Macro.expand .handler) ∧ s.ihPos = 0 ∧
      s.fgProg = [] ++ assemble (Macro.expand (.showBuf buf)) ++ [] ∧ s.fgPos = [].length (α := OpWord)) ∧
    (buf.toNat % 2 = 0 ∧ buf.toNat + s.cfg.bufsize ≤ 2 ^ s.cfg.aw ∧ s.ownsBuffer buf.toNat = true ∧
      s.turns = List.replicate 5 (.agent .foreground) ++ ticksTurns s.cfg.n ++
        List.replicate 6 (.agent .interrupt) ++ [.time s.cfg.tLatch, .agent .foreground] ++ []) := by
  decide

/-- The host of `midTransfer` in the middle of a `show`. -/
def hosting : State :=
  { midTransfer with fgProg := assemble (hostCalls [.init, .showBuf 0x20000100]), fgPos := 6 }

theorem hosting_protocol : hosting.HostProtocol where
  aligned := ⟨by constructor <;> decide, by decide,
    fun _ => .inr (.inl ⟨by decide, by decide, by decide, by decide, by decide⟩),
    by decide, by decide, by decide⟩
  program := ⟨_, rfl⟩
  handler := rfl
  beforeInit := by decide
  stage _ := ⟨.flight, rfl, rfl, rfl, rfl, rfl, by decide⟩

theorem ready_aligned : ready.Aligned :=
  ⟨by constructor <;> decide, by decide, fun _ => .inl ⟨by decide, by decide⟩, by decide, by decide, by decide⟩

/-- The host right after INIT. -/
def quietHost : State := { ready with fgProg := assemble (hostCalls [.init]), fgPos := 1 }

theorem quietHost_protocol : quietHost.HostProtocol where
  aligned := ⟨by constructor <;> decide, by decide, fun _ => .inl ⟨by decide, by decide⟩, by decide,
    by decide, by decide⟩
  program := ⟨_, rfl⟩
  handler := rfl
  beforeInit := by decide
  stage _ := ⟨.quiet, rfl, rfl, rfl, rfl, (by simp [quietHost, ready, State.reset, State.powerOn,
    State.foregroundAt, hostCalls, HostCall.expand, assemble])⟩

/-- A step in the middle of a `show`; a quiet state after INIT; and INIT as the first step from power-on. -/
theorem witness_InactiveGateMeansQuietHardware :
    (hosting.HostProtocol ∧ ∃ t, step hosting = .next t) ∧
    (quietHost.HostProtocol ∧ quietHost.hostInited = true ∧ quietHost.gateActive = false ∧
      quietHost.hostInh = false) ∧
    (Config.scenario.startAligned = true ∧ configValid Config.scenario = true ∧
      ∃ s, Runs 1 (State.hostStart Config.scenario [] [.init, .showBuf 0x20000100]
          [.agent .foreground]) s ∧
        s.hostInited = true ∧ s.gateActive = false ∧ s.hostInh = false) :=
  ⟨⟨hosting_protocol, _, rfl⟩, ⟨quietHost_protocol, by decide⟩,
    rfl, by decide, _, ⟨_, rfl, rfl⟩, rfl, rfl, rfl⟩

/-- (a) `midTransfer`, the turns of the hardware and of time going round. -/
theorem witness_FairExecutions_transfer :
    ∃ ρ τ, IsExecution ρ τ ∧ Fair ρ τ ∧ (ρ 0).Aligned ∧ (ρ 0).hostInited = true ∧
      (ρ 0).ecgRun = true ∧ (ρ 0).cchEn = true ∧ (ρ 0).dchArmed = true ∧
      ∀ m, 0 ≤ m → (ρ m).ownsBuffer (ρ m).dchSrc.toNat = true := by
  have h := roundState_fair (s := midTransfer) (by decide) (by decide) (by decide)
  refine ⟨_, _, h.1, h.2.fair (fun _ hi => hi), midTransfer_aligned, by decide, by decide, by decide, by decide, fun m _ => ?_⟩
  have hs := (roundState_execution (s := midTransfer) (by decide) (by decide) m).1
  have hb : midTransfer.ownsBuffer midTransfer.dchSrc.toNat = true := by decide
  simpa only [State.ownsBuffer, State.owns, hs.cfg, hs.dchSrc, hs.owned] using hb

/-- The foreground at XFER.GO, the generator before an edge A. -/
def atGo : State := { ready with fgProg := [encode .xferGo] }

/-- The state XFER.GO leaves. -/
def gone : State := { atGo with dchEn := true, cchEn := true, fgPos := 1 }

/-- (b) XFER.GO first, then the turns going round. -/
theorem witness_FairExecutions_go :
    ∃ ρ τ, IsExecution ρ τ ∧ Fair ρ τ ∧ (ρ 0).Aligned ∧ (ρ 0).hostInited = true ∧
      (ρ 0).ecgRun = true ∧ (ρ 0).cchEn = false ∧ (ρ 0).sigDone = false ∧ (ρ 0).hostInh = false ∧
      (ρ 0).nextWord .foreground = some (encode .xferGo) := by
  have h := roundState_fair (s := gone) (by decide) (by decide) (by decide)
  have hgo : step { atGo with turns := [.agent .foreground] } = .next (roundState gone 0) := rfl
  have h' := FairFor.precede hgo h
  exact ⟨_, _, h'.1, h'.2.fair (fun _ hi => hi),
    ⟨by constructor <;> decide, by decide, fun _ => .inl ⟨by decide, by decide⟩, by decide, by decide,
      by decide⟩, by decide, by decide, by decide, by decide, by decide, by decide⟩

/-- (c) The foreground at GATE.WAITLATCH. -/
theorem witness_FairExecutions_wait :
    ∃ ρ τ, IsExecution ρ τ ∧ Fair ρ τ ∧ (ρ 0).Aligned ∧ (ρ 0).hostInited = true ∧
      (ρ 0).ecgRun = true ∧ (ρ 0).cchEn = false ∧ (ρ 0).sigDone = false ∧ (ρ 0).hostInh = false ∧
      (ρ 0).gateActive = false ∧ (ρ 0).nextWord .foreground = some (encode .gateWaitLatch) := by
  have h := roundState_fair (s := { ready with fgProg := [encode .gateWaitLatch] }) (by decide) (by decide)
    (by decide)
  exact ⟨_, _, h.1, h.2.fair (fun _ hi => hi),
    ⟨by constructor <;> decide, by decide, fun _ => .inl ⟨by decide, by decide⟩, by decide, by decide,
      by decide⟩, by decide, by decide, by decide, by decide, by decide, by decide, by decide⟩

/-- The state the turns of `showing` lead to. -/
def shown : State := (followed (fun _ => true) showing showing.turns).getD showing

/-- (d) The turns of a `show`, its buffer at the top of the address space, then the turns going round. -/
theorem witness_FairExecutions_show :
    ∃ ρ τ, IsExecution ρ τ ∧ Fair ρ τ ∧ HostProgress ρ τ ∧ ρ 0 = showing ∧ showing.Aligned ∧
      (showing.hostInited = true ∧ showing.ecgRun = true ∧ showing.cchEn = false ∧
        showing.sigDone = false ∧ showing.hostInh = false ∧ showing.gateActive = false ∧
        showing.ihProg = assemble (Macro.expand .handler) ∧ showing.ihPos = 0 ∧
        showing.fgProg = [] ++ assemble (Macro.expand (.showBuf 0xFFFFFFFE)) ++ [] ∧
        showing.fgPos = [].length (α := OpWord) ∧ (0xFFFFFFFE : Addr).toNat % 2 = 0 ∧
        (0xFFFFFFFE : Addr).toNat + showing.cfg.bufsize ≤ 2 ^ showing.cfg.aw) ∧
      ∀ m, 0 ≤ m → (ρ m).ownsBuffer (0xFFFFFFFE : Addr).toNat = true := by
  have h := roundState_over (s := shown) (by decide) (by decide) (by decide) (by decide) (by decide)
    (by decide)
  have hb : shown.ownsBuffer (0xFFFFFFFE : Addr).toNat = true := by decide
  obtain ⟨ρ, τ, h0, hq, he, hf⟩ := FairFor.follow (ρ := roundState shown)
    (q := fun s => s.ownsBuffer (0xFFFFFFFE : Addr).toNat) (s := showing) (turns := showing.turns)
    (t := shown) (by decide) rfl (fun m => by
      have hs := (roundState_execution (s := shown) (by decide) (by decide) m).1
      simpa only [State.ownsBuffer, State.owns, hs.cfg, hs.owned] using hb) h
  exact ⟨ρ, τ, he, hf.fair (fun _ _ => trivial), fun i _ => hf.weak i trivial, h0,
    ⟨by constructor <;> decide, by decide, fun _ => .inl ⟨by decide, by decide⟩, by decide, by decide,
      by decide⟩, by decide, fun m _ => hq m⟩

theorem witness_CleanTransferIsReceived :
    configValid Config.scenario = true ∧ (0xFFFE : Word).getLsbD (clockLine Config.scenario) = false ∧
    (∀ w ∈ ([0xFFFE] : List Word), w.getLsbD (clockLine Config.scenario) = false) ∧
    15 < 16 ∧ 15 ≠ clockLine Config.scenario := by
  refine ⟨by decide, by decide, fun w hw => ?_, by decide, by decide⟩
  rw [List.mem_singleton.1 hw]
  decide

theorem witness_DirtyWordMergesPulses :
    configValid Config.scenario = true ∧ (0x0003 : Word).getLsbD (clockLine Config.scenario) = true ∧
    (0x0001 : Word).getLsbD (clockLine Config.scenario) = true ∧
    (0x0000 : Word).getLsbD (clockLine Config.scenario) = false := by decide

/-- The last word and the last byte of the address space, and the first stores that are not inside it. -/
theorem witness_CallerStoreIsReadBack :
    (ready.cfg.wf = true ∧ ready.programsOk = true ∧ ready.mem.wf) ∧
    ((turn (.callerStore 0xFFFFFFFE 0x1234) ready).turns = .callerStore 0xFFFFFFFE 0x1234 :: [] ∧
      0xFFFFFFFE + 2 ≤ 2 ^ ready.cfg.aw) ∧
    ((turn (.callerStore 0xFFFFFFFF 0x1234) ready).turns = .callerStore 0xFFFFFFFF 0x1234 :: [] ∧
      2 ^ ready.cfg.aw < 0xFFFFFFFF + 2) ∧
    ((turn (.callerStoreByte 0xFFFFFFFF 0x12) ready).turns = .callerStoreByte 0xFFFFFFFF 0x12 :: [] ∧
      0xFFFFFFFF < 2 ^ ready.cfg.aw) ∧
    ((turn (.callerStoreByte 0x100000000 0x12) ready).turns = .callerStoreByte 0x100000000 0x12 :: [] ∧
      2 ^ ready.cfg.aw ≤ 0x100000000) := by decide

theorem witness_CallerOwnsWhatItDeclares :
    let s := turn (.callerOwn 0xFFFFFFFE [0x1234]) ready
    let p := turn (.callerOwn 0xFFFFFFFE [0x1234, 0x5678]) ready
    let u := turn (.callerFree 0x20000102 2) (fill ready 0x20000100 [1, 2, 3])
    (s.cfg.wf = true ∧ s.programsOk = true ∧ s.turns = .callerOwn 0xFFFFFFFE [0x1234] :: [] ∧
      s.mem.wf ∧ 0xFFFFFFFE + 2 * [(0x1234 : Word)].length ≤ 2 ^ s.cfg.aw ∧ s.dchEn = false) ∧
    (p.turns = .callerOwn 0xFFFFFFFE [0x1234, 0x5678] :: [] ∧
      2 ^ p.cfg.aw < 0xFFFFFFFE + 2 * [(0x1234 : Word), 0x5678].length) ∧
    (u.cfg.wf = true ∧ u.programsOk = true ∧ u.turns = .callerFree 0x20000102 2 :: [] ∧
      (after (step u)).map (fun t => (t.owns 0x20000101, t.owns 0x20000102, t.owns 0x20000104)) =
        some (true, false, true)) := by decide


end Sys2Proof.Tests
end

section
/-! PROOFS. What the step does with the next word: the decoder against the encoder, the configuration, the
turn. -/

namespace Sys2Proof

/-- The number of an operation in the operation map names that operation (R57). -/
theorem decodeOp_opcode (i : Instr) : decodeOp i.opcode.toNat i.arg = some i := by
  cases i <;> rfl

/-- The operation map gives an operation only for its own number and its own operand (R57, R58). -/
theorem decodeOp_eq_some {op : Nat} {arg : Addr} {i : Instr} (h : decodeOp op arg = some i) :
    i.opcode.toNat = op ∧ i.arg = arg := by
  unfold decodeOp at h
  split at h <;> simp only [decodeZ, Option.ite_none_right_eq_some, Option.some.injEq, reduceCtorEq] at h
  all_goals
    obtain ⟨rfl, rfl⟩ := h
    exact ⟨rfl, rfl⟩

@[simp] theorem decode_encode (i : Instr) : decode (encode i) = some i := by
  obtain ⟨hop, harg⟩ := Laws.Words.of_append i
  rw [decode, hop, harg, decodeOp_opcode]

theorem append_fields (w : OpWord) : opField w ++ argField w = w := by
  apply BitVec.eq_of_getLsbD_eq
  intro j hj
  unfold opField argField
  rw [BitVec.getLsbD_append]
  by_cases h : j < 32
  · simp [h]
  · simp only [h, decide_false, BitVec.getLsbD_extractLsb']
    rw [show 32 + (j - 32) = j by omega]
    simp [show j - 32 < 8 by omega]

theorem encode_eq_of_decode {w : OpWord} {i : Instr} (h : decode w = some i) : encode i = w := by
  obtain ⟨hop, harg⟩ := decodeOp_eq_some h
  rw [encode, harg, BitVec.eq_of_toNat_eq hop, append_fields]

end Sys2Proof

namespace Sys2Proof.Machine

/-! ## The configuration (R6) -/

/-- Exactly one number below `n` satisfies `p`, counted and said. -/
theorem countP_range_eq_one_iff (n : Nat) (p : Nat → Bool) :
    (List.range n).countP p = 1 ↔ ∃! i, i < n ∧ p i = true := by
  have hcard : (List.range n).countP p = ((Finset.range n).filter (fun i => p i = true)).card := by
    rw [← Nat.count_eq_card_filter_range, Nat.count]
    simp
  rw [hcard, Finset.card_eq_one]
  constructor
  · rintro ⟨a, ha⟩
    have hmem (i : Nat) : i < n ∧ p i = true ↔ i = a := by
      rw [← Finset.mem_range, ← Finset.mem_filter (p := fun i => p i = true), ha, Finset.mem_singleton]
    exact ⟨a, (hmem a).2 rfl, fun i hi => (hmem i).1 hi⟩
  · rintro ⟨a, ha, hunique⟩
    refine ⟨a, Finset.ext fun i => ?_⟩
    rw [Finset.mem_filter, Finset.mem_range, Finset.mem_singleton]
    exact ⟨hunique i, fun h => h ▸ ha⟩

/-- The check of the configuration is the condition of R6. -/
theorem config_wf_iff (c : Config) :
    c.wf = true ↔ c.bufsize % 2 = 0 ∧ 0 < c.bufsize ∧
      (∃! i, i < 16 ∧ c.clkmask.getLsbD i = true) ∧ c.idleLevel &&& c.clkmask = 0 := by
  simp only [Config.wf, configValid, popcount, Bool.and_eq_true, beq_iff_eq, decide_eq_true_eq,
    countP_range_eq_one_iff, and_assoc]

/-- No operation is refused for the configuration. -/
theorem exec_ne_badConfig (i : Instr) (s : State) : exec i s ≠ .refused .badConfig := by
  cases i <;>
    simp only [exec, execInit, execDchArm, execLatchClr, execDchStart, execCchStart, execXferGo,
      execXferDisable, execDoneAck, execPortIdle, execEdgeA, execEdgeB, execDchXfer, execCchXfer,
      execGateWaitIdle, execGateSetActive, execBufScrub, execGateWaitLatch, execGateBusy,
      execTsRecord, execGateClrActive, execIrqEnter, execIrqExit, afterInit] <;>
    split_ifs <;> simp

theorem performWord_ne_badConfig (a : Agent) (w : OpWord) (s : State) :
    performWord a w s ≠ .refused .badConfig := by
  unfold performWord
  split
  · simp
  · split_ifs
    · exact exec_ne_badConfig _ _
    · simp

/-- No turn is refused for the configuration. -/
theorem takeTurn_ne_badConfig (turn : Turn) (s : State) : takeTurn turn s ≠ .refused .badConfig := by
  cases turn with
  | agent a =>
    simp only [takeTurn]
    split
    · exact performWord_ne_badConfig _ _ _
    · simp
  | time d => simp [takeTurn]
  | callerFree base size => simp [takeTurn]
  | callerOwn base ws => simp only [takeTurn]; split_ifs <;> simp
  | callerStore a w => simp only [takeTurn]; split_ifs <;> simp
  | callerStoreByte a b => simp only [takeTurn]; split_ifs <;> simp

/-- A step is refused for its configuration exactly when the check fails. -/
theorem step_eq_badConfig_iff (s : State) : step s = .refused .badConfig ↔ ¬ s.cfg.wf = true := by
  unfold step runStep
  by_cases hc : s.cfg.wf = true
  · by_cases hp : s.programsOk = true
    · simpa [hc, hp] using takeTurn_ne_badConfig s.nextTurn s.afterTurn
    · simp [hc, hp]
  · simp [hc]

/-- Settles O10: the step tests the configuration first, and no turn gives that refusal. -/
theorem invalidConfigurationHasNoRun : Obligations.InvalidConfigurationHasNoRun := by
  intro s
  rw [step_eq_badConfig_iff, config_wf_iff]

/-! ## The turn (R9) -/

/-- An agent's turn performs the operation its next word decodes to, if it is its own. -/
theorem takeTurn_of_nextWord {a : Agent} {w : OpWord} {i : Instr} {s : State}
    (hw : s.nextWord a = some w) (hd : decode w = some i) (ha : i.agent = a) :
    takeTurn (.agent a) s = exec i s := by
  simp only [takeTurn, hw, performWord, hd, if_pos ha]

/-- Settles O6: the next word is fetched from the program of the agent whose turn it is. -/
theorem stepRunsTheHostsNextOperation : Obligations.StepRunsTheHostsNextOperation := by
  intro s ts w i hc hp hd
  refine ⟨fun ht hinh hw ha => ?_, fun ht hrun hw ha => ?_⟩
  · rw [step_of_turn hc hp ht]
    exact takeTurn_of_nextWord ((State.nextWord_foreground _ w).2 ⟨hinh, hw⟩) hd ha
  · rw [step_of_turn hc hp ht]
    have henter : s.hostInh = true ∨ w = encode .irqEnter :=
      hrun.imp_right fun hi => by rw [← hi, encode_eq_of_decode hd]
    exact takeTurn_of_nextWord ((State.nextWord_interrupt _ w).2 ⟨hw, henter⟩) hd ha

/-- Settles O7: an agent of the hardware has the word of its one next event. -/
theorem stepRunsTheHardwaresNextEvent : Obligations.StepRunsTheHardwaresNextEvent := by
  intro s ts hc hp
  have hrun (i : Instr) (ht : s.turns = .agent i.agent :: ts)
      (hw : State.nextWord { s with turns := ts } i.agent = some (encode i)) :
      step s = exec i { s with turns := ts } := by
    rw [step_of_turn hc hp ht]
    exact takeTurn_of_nextWord hw (decode_encode i) rfl
  refine ⟨fun ht hn => hrun .edgeA ht ?_, fun ht hn => hrun .edgeB ht ?_, fun ht => hrun .dchXfer ht rfl,
    fun ht => hrun .cchXfer ht rfl⟩
  · simp only [Instr.agent, State.nextWord, hn]
  · simp only [Instr.agent, State.nextWord, hn]

/-- Settles O11: a free turn is drawn exactly when the list is empty. -/
theorem unnamedTurnIsFree : Obligations.UnnamedTurnIsFree := by
  intro s ht
  have hnext : s.nextTurn = Config.freeTurn s.draws := by rw [State.nextTurn, ht]
  have hafter : s.afterTurn = { s with turns := [], draws := s.draws + 1 } := by
    simp only [State.afterTurn, ht]
  rw [step, runStep, hnext, hafter]
  rfl

end Sys2Proof.Machine
end

section
/-! PROOFS. The invariants every step keeps: a sound state, and with `START_ALIGNED = true` the channels in lock
step and the trace in order (10_state.md R24, 20_memory.md R39). -/

namespace Sys2Proof.Machine

/-! ## A sound state (R24 (a), (b), R131) -/

theorem nextIdx_lt {n : Nat} (h : 0 < n) (k : Nat) : nextIdx n k < n := Nat.mod_lt _ h

theorem nextIdx_of_last {n k : Nat} (h : lastOfPass n k = true) : nextIdx n k = 0 := by
  rw [lastOfPass, beq_iff_eq] at h
  rw [nextIdx, h, Nat.mod_self]

theorem nextIdx_of_not_last {n k : Nat} (hk : k < n) (h : lastOfPass n k = false) :
    nextIdx n k = k + 1 := by
  rw [lastOfPass, beq_eq_false_iff_ne] at h
  exact Nat.mod_eq_of_lt (by omega)

theorem State.drawTimestamp_le (s : State) : s.drawTimestamp ≤ s.now :=
  Nat.le_of_lt_succ (Nat.mod_lt _ (Nat.succ_pos _))

theorem State.racedAfter_of_disabled {s : State} (h : s.dchEn = false) (as : List Nat) :
    s.racedAfter as = s.raced := by simp [State.racedAfter, h]

/-- Every operation keeps a state sound. -/
theorem State.Sound.effect {i : Instr} {s t : State} (hs : s.Sound) (h : Effect s i t) : t.Sound := by
  obtain ⟨hcfg, hmem, hdch, hcch, hdlt, hclt, hcts, hraced⟩ := hs
  have hn : 0 < s.cfg.n := configValid_n_pos hcfg
  cases h with
  | init => exact ⟨hcfg, hmem, fun _ => rfl, fun _ => rfl, hn, hn, s.drawTimestamp_le, fun _ => rfl⟩
  | dchArm => exact ⟨hcfg, hmem, fun _ => rfl, hcch, hn, hclt, hcts, hraced⟩
  | dchStart => exact ⟨hcfg, hmem, nofun, hcch, hdlt, hclt, hcts, nofun⟩
  | cchStart => exact ⟨hcfg, hmem, hdch, nofun, hdlt, hclt, hcts, hraced⟩
  | xferGo => exact ⟨hcfg, hmem, nofun, nofun, hdlt, hclt, hcts, nofun⟩
  | xferDisable h hd hc =>
    exact ⟨hcfg, hmem, fun _ => hdch hd, fun _ => hcch hc, hdlt, hclt, hcts, fun _ => hraced hd⟩
  | dchXfer =>
    refine ⟨hcfg, hmem, fun h => ?_, hcch, nextIdx_lt hn _, hclt, hcts, fun h => ?_⟩ <;>
      simp only [State.serveData_dchEn, Bool.not_eq_eq_eq_not, Bool.not_false] at h
    · exact nextIdx_of_last h
    · rw [State.serveData_raced, if_pos h]
  | cchXfer =>
    refine ⟨hcfg, hmem, hdch, fun h => ?_, hdlt, nextIdx_lt hn _, hcts, hraced⟩
    simp only [State.serveClock_cchEn, Bool.not_eq_eq_eq_not, Bool.not_false] at h
    exact nextIdx_of_last h
  | bufScrub buf =>
    rw [State.scrubWords_eta]
    refine ⟨hcfg, State.scrubWords_memWf s _ _ hmem, hdch, hcch, hdlt, hclt, hcts, fun h => ?_⟩
    exact (State.scrubWords_raced s _ _ h).trans (hraced h)
  | tsRecord => exact ⟨hcfg, hmem, hdch, hcch, hdlt, hclt, Nat.le_refl _, hraced⟩
  | _ => exact ⟨hcfg, hmem, hdch, hcch, hdlt, hclt, hcts, hraced⟩

/-- Every turn keeps a state sound. -/
theorem State.Sound.turn {turn : Turn} {s t : State} (hs : s.Sound) (h : TurnEffect s turn t) :
    t.Sound := by
  cases h with
  | idle => exact hs
  | word a w i t hw hi ha he => exact hs.effect (exec_effect he)
  | time d =>
    obtain ⟨hcfg, hmem, hdch, hcch, hdlt, hclt, hcts, hraced⟩ := hs
    exact ⟨hcfg, hmem, hdch, hcch, hdlt, hclt, Nat.le_add_right_of_le hcts, hraced⟩
  | own base ws =>
    obtain ⟨hcfg, hmem, hdch, hcch, hdlt, hclt, hcts, hraced⟩ := hs
    rw [State.declare, State.storeWords_eta]
    refine ⟨hcfg, State.storeWords_memWf s _ _ hmem, hdch, hcch, hdlt, hclt, hcts, fun h => ?_⟩
    exact (State.storeWords_raced s _ _ h).trans (hraced h)
  | free base size =>
    obtain ⟨hcfg, hmem, hdch, hcch, hdlt, hclt, hcts, hraced⟩ := hs
    exact ⟨hcfg, hmem, hdch, hcch, hdlt, hclt, hcts, hraced⟩
  | store a w =>
    obtain ⟨hcfg, hmem, hdch, hcch, hdlt, hclt, hcts, hraced⟩ := hs
    exact ⟨hcfg, Memory.writeWord_wf _ _ _ _ hmem, hdch, hcch, hdlt, hclt, hcts,
      fun h => (State.racedAfter_of_disabled (s := s) h _).trans (hraced h)⟩
  | storeByte a b =>
    obtain ⟨hcfg, hmem, hdch, hcch, hdlt, hclt, hcts, hraced⟩ := hs
    exact ⟨hcfg, Memory.writeByte_wf _ _ _ hmem, hdch, hcch, hdlt, hclt, hcts,
      fun h => (State.racedAfter_of_disabled (s := s) h _).trans (hraced h)⟩

/-! ## Lock step (R24 (d)) -/

/-- Both channels are disabled. -/
structure State.AtRest (s : State) : Prop where
  dchOff : s.dchEn = false
  cchOff : s.cchEn = false

/-- The DataChannel is next, with edge A to come or latched. -/
structure State.AtData (s : State) : Prop where
  dchOn : s.dchEn = true
  cchOn : s.cchEn = true
  idx : s.dchIdx = s.cchIdx
  latB : s.latB = false
  latA : s.latA = (s.ecgNext == .B)

/-- The DataChannel has served the tick of `CCH.IDX`, with edge B to come or latched. -/
structure State.AtClock (s : State) : Prop where
  cchOn : s.cchEn = true
  idx : s.dchIdx = nextIdx s.cfg.n s.cchIdx
  dchEn : s.dchEn = !lastOfPass s.cfg.n s.cchIdx
  latA : s.latA = false
  latB : s.latB = (s.ecgNext == .A)

/-- The three clauses of lock step, named. -/
theorem State.lockStep_iff (s : State) : s.LockStep ↔ s.AtRest ∨ s.AtData ∨ s.AtClock := by
  constructor
  · rintro (⟨hd, hc⟩ | ⟨hd, hc, hi, hb, ha⟩ | ⟨hc, hi, hd, ha, hb⟩)
    · exact .inl ⟨hd, hc⟩
    · exact .inr (.inl ⟨hd, hc, hi, hb, ha⟩)
    · exact .inr (.inr ⟨hc, hi, hd, ha, hb⟩)
  · rintro (⟨hd, hc⟩ | ⟨hd, hc, hi, hb, ha⟩ | ⟨hc, hi, hd, ha, hb⟩)
    · exact .inl ⟨hd, hc⟩
    · exact .inr (.inl ⟨hd, hc, hi, hb, ha⟩)
    · exact .inr (.inr ⟨hc, hi, hd, ha, hb⟩)

theorem State.AtRest.lockStep {s : State} (h : s.AtRest) : s.LockStep := s.lockStep_iff.2 (.inl h)

theorem State.AtData.lockStep {s : State} (h : s.AtData) : s.LockStep :=
  s.lockStep_iff.2 (.inr (.inl h))

theorem State.AtClock.lockStep {s : State} (h : s.AtClock) : s.LockStep :=
  s.lockStep_iff.2 (.inr (.inr h))

theorem State.LockStep.atRest {s : State} (h : s.LockStep) (hc : s.cchEn = false) : s.AtRest := by
  obtain h | h | h := s.lockStep_iff.1 h
  · exact h
  · simp [h.cchOn] at hc
  · simp [h.cchOn] at hc

/-- With a channel enabled one of the two services is next. -/
theorem State.LockStep.busy {s : State} (h : s.LockStep) (hc : s.cchEn = true) :
    s.AtData ∨ s.AtClock := by
  obtain h | h := s.lockStep_iff.1 h
  · simp [h.cchOff] at hc
  · exact h

/-- `LAT.A` of an enabled DataChannel means that its service is next. -/
theorem State.LockStep.atData {s : State} (h : s.LockStep) (hd : s.dchEn = true) (hl : s.latA = true) :
    s.AtData := by
  obtain h | h | h := s.lockStep_iff.1 h
  · simp [h.dchOff] at hd
  · exact h
  · simp [h.latA] at hl

/-- `LAT.B` of an enabled ClockChannel means that its service is next. -/
theorem State.LockStep.atClock {s : State} (h : s.LockStep) (hc : s.cchEn = true) (hl : s.latB = true) :
    s.AtClock := by
  obtain h | h | h := s.lockStep_iff.1 h
  · simp [h.cchOff] at hc
  · simp [h.latB] at hl
  · exact h

theorem State.servicePending_eq_false {s : State} (h : s.servicePending = false) :
    (s.dchEn = true → s.latA = false) ∧ (s.cchEn = true → s.latB = false) := by
  simpa [State.servicePending] using h

theorem State.LockStep.edgeA {s : State} (h : s.LockStep) (hn : s.ecgNext = .A)
    (hp : s.servicePending = false) : State.LockStep { s with latA := true, ecgNext := .B } := by
  obtain h | h | h := s.lockStep_iff.1 h
  · exact State.AtRest.lockStep ⟨h.dchOff, h.cchOff⟩
  · exact State.AtData.lockStep ⟨h.dchOn, h.cchOn, h.idx, h.latB, rfl⟩
  · have hb := h.latB
    simp [(State.servicePending_eq_false hp).2 h.cchOn, hn] at hb

theorem State.LockStep.edgeB {s : State} (h : s.LockStep) (hn : s.ecgNext = .B)
    (hp : s.servicePending = false) : State.LockStep { s with latB := true, ecgNext := .A } := by
  obtain h | h | h := s.lockStep_iff.1 h
  · exact State.AtRest.lockStep ⟨h.dchOff, h.cchOff⟩
  · have ha := h.latA
    simp [(State.servicePending_eq_false hp).1 h.dchOn, hn] at ha
  · exact State.AtClock.lockStep ⟨h.cchOn, h.idx, h.dchEn, h.latA, rfl⟩

theorem State.AtData.next_of_latA {s : State} (h : s.AtData) (hl : s.latA = true) : s.ecgNext = .B := by
  simpa [hl] using h.latA

theorem State.AtClock.next_of_latB {s : State} (h : s.AtClock) (hl : s.latB = true) :
    s.ecgNext = .A := by
  simpa [hl] using h.latB

/-- The DataChannel's service brings the tick to its clock write. -/
theorem State.AtData.serveData {s : State} (h : s.AtData) (hl : s.latA = true) :
    s.serveData.AtClock :=
  ⟨h.cchOn, by simp [h.idx], by simp [h.idx], rfl, by simp [h.latB, h.next_of_latA hl]⟩

/-- The ClockChannel's service ends the tick: both channels are at rest after the last one of the pass. -/
theorem State.AtClock.serveClock {s : State} (h : s.AtClock) (hl : s.latB = true) :
    if lastOfPass s.cfg.n s.cchIdx then s.serveClock.AtRest else s.serveClock.AtData := by
  split_ifs with hlast
  · exact ⟨by simp [h.dchEn, hlast], by simp [hlast]⟩
  · exact ⟨by simp [h.dchEn, hlast], by simp [hlast], h.idx, rfl,
      by simp [h.latA, h.next_of_latB hl]⟩

theorem State.AtClock.serveClock_lockStep {s : State} (h : s.AtClock) (hl : s.latB = true) :
    s.serveClock.LockStep := by
  have hnext := h.serveClock hl
  split_ifs at hnext
  · exact hnext.lockStep
  · exact hnext.lockStep

/-! ## The order of the port writes (R39) -/

theorem State.AtRest.expected {s : State} (h : s.AtRest) : s.expected = .rest := by
  simp [State.expected, h.cchOff]

theorem State.AtData.expected {s : State} (h : s.AtData) :
    s.expected = if s.dchIdx = 0 then .rest else .data s.dchIdx := by
  simp [State.expected, h.dchOn, h.cchOn, h.idx]

/-- The cursor of the DataChannel is ahead once it has served the tick. -/
theorem State.AtClock.not_same {s : State} (h : s.AtClock) (hlt : s.cchIdx < s.cfg.n) :
    (s.dchEn && s.dchIdx == s.cchIdx) = false := by
  cases hlast : lastOfPass s.cfg.n s.cchIdx with
  | true => simp [h.dchEn, hlast]
  | false => simp [h.idx, nextIdx_of_not_last hlt hlast]

theorem State.AtClock.expected {s : State} (h : s.AtClock) (hlt : s.cchIdx < s.cfg.n) :
    s.expected = .clock s.cchIdx := by
  simp [State.expected, h.cchOn, h.not_same hlt]

theorem acceptWrites_append (c : Config) (start : Expected × Word) (es : List PortWrite) (e : PortWrite) :
    acceptWrites c start (es ++ [e]) = (acceptWrites c start es).bind (fun x => acceptWrite c x e) := by
  simp [acceptWrites, List.foldlM_append]

theorem acceptWrite_data (c : Config) (k : Nat) (old v : Word) :
    acceptWrite c (if k = 0 then .rest else .data k, old) ⟨.D, k, v⟩ = some (.clock k, v) := by
  by_cases hk : k = 0 <;> simp [acceptWrite, hk]

theorem acceptWrite_clock (c : Config) (k : Nat) (old : Word) :
    acceptWrite c (.clock k, old) ⟨.C, k, old ||| c.clkmask⟩ =
      some (if k + 1 = c.n then .rest else .data (k + 1), old ||| c.clkmask) := by
  simp [acceptWrite]

theorem acceptWrite_idle (c : Config) (old : Word) :
    acceptWrite c (.rest, old) ⟨.I, 0, c.idleLevel⟩ = some (.rest, c.idleLevel) := by
  simp [acceptWrite]

/-! ## An aligned state (R24 (c), (d)) -/

/-- What `State.Aligned` says once INIT has run. -/
structure State.InStep (s : State) : Prop where
  lockStep : s.LockStep
  doneRest : s.sigDone = true → s.cchEn = false
  handlerRest : s.hostInh = true → s.cchEn = false
  ordered : acceptWrites s.cfg (.rest, s.cfg.idleLevel) s.trace = some (s.expected, s.portOut)

theorem State.Aligned.inStep {s : State} (h : s.Aligned) (hi : s.hostInited = true) : s.InStep :=
  ⟨h.lockStep hi, h.doneRest hi, h.handlerRest hi, h.ordered hi⟩

theorem State.InStep.aligned {s : State} (h : s.InStep) (hs : s.Sound)
    (ha : s.cfg.startAligned = true) : s.Aligned :=
  ⟨hs, ha, fun _ => h.lockStep, fun _ => h.doneRest, fun _ => h.handlerRest, fun _ => h.ordered⟩

/-- No completion is pending while a channel is enabled (R24 (c)). -/
theorem State.InStep.not_done {s : State} (h : s.InStep) (hc : s.cchEn = true) : s.sigDone = false := by
  by_contra hd
  simp [h.doneRest (by simpa using hd)] at hc

/-- The handler does not run while a channel is enabled (R24 (c)). -/
theorem State.InStep.not_handling {s : State} (h : s.InStep) (hc : s.cchEn = true) :
    s.hostInh = false := by
  by_contra hr
  simp [h.handlerRest (by simpa using hr)] at hc

/-- INIT leaves the channels at rest and a trace of one idle write. -/
theorem State.initialised_inStep (s : State) : s.initialised.fgNext.InStep where
  lockStep := .inl ⟨rfl, rfl⟩
  doneRest _ := rfl
  handlerRest _ := rfl
  ordered := by simp [acceptWrites, State.expected, acceptWrite]

theorem State.InStep.serveData {s : State} (h : s.InStep) (hs : s.Sound) (hd : s.dchEn = true)
    (hl : s.latA = true) : s.serveData.InStep := by
  have hdata := h.lockStep.atData hd hl
  have hclock := hdata.serveData hl
  refine ⟨hclock.lockStep, h.doneRest, h.handlerRest, ?_⟩
  rw [hclock.expected hs.cchIdxLt, State.serveData_trace, State.serveData_cfg, acceptWrites_append, h.ordered,
    hdata.expected, Option.bind_some, acceptWrite_data]
  simp [hdata.idx]

theorem State.InStep.serveClock {s : State} (h : s.InStep) (hs : s.Sound) (hc : s.cchEn = true)
    (hl : s.latB = true) : s.serveClock.InStep := by
  have hclock := h.lockStep.atClock hc hl
  refine ⟨hclock.serveClock_lockStep hl, fun hd => ?_, fun hi => ?_, ?_⟩
  · simpa [h.not_done hc] using hd
  · simp [h.handlerRest hi] at hc
  · rw [State.serveClock_trace, State.serveClock_cfg, acceptWrites_append, h.ordered,
      hclock.expected hs.cchIdxLt, Option.bind_some, setSide, acceptWrite_clock]
    have hnext := hclock.serveClock hl
    split_ifs at hnext with hlast
    · rw [hnext.expected, if_pos (by simpa [lastOfPass] using hlast)]; rfl
    · rw [hnext.expected, if_neg (by simpa [lastOfPass] using hlast)]
      have hidx : s.dchIdx = s.cchIdx + 1 := hclock.idx.trans
        (nextIdx_of_not_last hs.cchIdxLt (by simpa using hlast))
      simp [hidx, setSide]

/-- Every operation an agent issues after INIT keeps the channels in step. -/
theorem State.InStep.effect {i : Instr} {s t : State} (h : s.InStep) (hs : s.Sound)
    (ha : s.cfg.startAligned = true) (hi : s.hostInited = true)
    (hw : s.nextWord i.agent = some (encode i)) (he : Effect s i t) : t.InStep := by
  obtain ⟨hlock, hdone, hinh, hord⟩ := h
  cases he with
  | init h => simp [hi] at h
  | latchClr _ h => simp [ha] at h
  | dchStart _ _ h => simp [ha] at h
  | cchStart _ _ h => simp [ha] at h
  | dchArm src _ hd hc =>
    exact ⟨.inl ⟨hd, hc⟩, hdone, hinh, by simpa [State.expected, hc] using hord⟩
  | xferGo _ hd hc hsig hp =>
    have hfg : s.hostInh = false := ((State.nextWord_foreground _ _).1 hw).1
    have hn : s.ecgNext = .A := by simpa [State.startInPhase, ha] using hp
    have hdi : s.dchIdx = 0 := hs.dchRest hd
    have hci : s.cchIdx = 0 := hs.cchRest hc
    refine ⟨State.AtData.lockStep ⟨rfl, rfl, hdi.trans hci.symm, rfl, by simp [hn]⟩,
      fun h => ?_, fun h => ?_, ?_⟩
    · simp [hsig] at h
    · simp [hfg] at h
    · simpa [State.expected, hdi, hci, hc] using hord
  | xferDisable _ hd hc =>
    exact ⟨.inl ⟨rfl, rfl⟩, fun _ => rfl, fun _ => rfl, by simpa [State.expected, hc] using hord⟩
  | doneAck => exact ⟨hlock, nofun, hinh, hord⟩
  | portIdle =>
    have hrun : s.hostInh = true :=
      ((State.nextWord_interrupt _ _).1 hw).2.resolve_right (by decide)
    have hrest := hlock.atRest (hinh hrun)
    have hrest' : (s.writePort .I 0 s.cfg.idleLevel).ihNext.AtRest := ⟨hrest.dchOff, hrest.cchOff⟩
    refine ⟨hrest'.lockStep, hdone, hinh, ?_⟩
    rw [hrest'.expected]
    simp [State.writePort, acceptWrites_append, hord, hrest.expected, acceptWrite_idle]
  | edgeA _ _ hn hp => exact ⟨hlock.edgeA hn hp, hdone, hinh, hord⟩
  | edgeB _ _ hn hp => exact ⟨hlock.edgeB hn hp, hdone, hinh, hord⟩
  | dchXfer _ hd hl => exact State.InStep.serveData ⟨hlock, hdone, hinh, hord⟩ hs hd hl
  | cchXfer _ hc hl => exact State.InStep.serveClock ⟨hlock, hdone, hinh, hord⟩ hs hc hl
  | bufScrub => rw [State.scrubWords_eta]; exact ⟨hlock, hdone, hinh, hord⟩
  | irqEnter _ hsig => exact ⟨hlock, hdone, fun _ => hdone hsig, hord⟩
  | irqExit => exact ⟨hlock, hdone, nofun, hord⟩
  | _ => exact ⟨hlock, hdone, hinh, hord⟩

/-! ## Turns -/

/-- What a turn is, seen from the agents: an operation is performed, or nothing changes but `NOW`, the memory
and what the model records of it. -/
inductive Move (s : State) (turn : Turn) (t : State) : Prop where
  | outside (now : Nat) (mem : Memory) (owned : List Region) (raced : List (Nat × Word))
      (hnow : s.now ≤ now) (ht : t = { s with now := now, mem := mem, owned := owned, raced := raced })
  | act (i : Instr) (hturn : turn = .agent i.agent) (hw : s.nextWord i.agent = some (encode i))
      (hx : exec i s = .next t)

theorem TurnEffect.move {turn : Turn} {s t : State} (h : TurnEffect s turn t) : Move s turn t := by
  cases h with
  | idle => exact .outside s.now s.mem s.owned s.raced le_rfl rfl
  | word a w i t hw hi ha he => exact .act i (by rw [ha]) (by rw [ha, hw, encode_eq_of_decode hi]) he
  | time d => exact .outside _ s.mem s.owned s.raced (Nat.le_add_right _ d) rfl
  | own base ws =>
    exact .outside s.now _ _ _ le_rfl (by rw [State.declare, State.storeWords_eta])
  | free => exact .outside s.now s.mem _ s.raced le_rfl rfl
  | store => exact .outside s.now _ s.owned _ le_rfl rfl
  | storeByte => exact .outside s.now _ s.owned _ le_rfl rfl

theorem Effect.cfg {i : Instr} {s t : State} (h : Effect s i t) : t.cfg = s.cfg := by
  cases h with
  | bufScrub => simp
  | _ => rfl

theorem Effect.now {i : Instr} {s t : State} (h : Effect s i t) : t.now = s.now := by
  cases h with
  | bufScrub => simp
  | _ => rfl

/-- INIT happens once: after it the host stays initialised and the generator runs on (R76, R120). -/
theorem Effect.inited {i : Instr} {s t : State} (h : Effect s i t) (hi : s.hostInited = true) :
    t.hostInited = true ∧ t.ecgRun = s.ecgRun := by
  cases h with
  | init h => simp [hi] at h
  | bufScrub => simp [hi]
  | _ => exact ⟨hi, rfl⟩

theorem Effect.of_not_inited {i : Instr} {s t : State} (h : Effect s i t) (hi : s.hostInited = false) :
    t = s ∨ t = s.initialised.fgNext := by
  cases h with
  | held => exact .inl rfl
  | init => exact .inr rfl
  | _ => simp_all

/-- Every turn keeps an aligned state aligned. -/
theorem State.Aligned.turn {turn : Turn} {s t : State} (hs : s.Aligned) (h : TurnEffect s turn t) :
    t.Aligned := by
  have hsound := hs.sound.turn h
  cases h.move with
  | outside now mem owned raced hnow ht =>
    subst ht
    exact ⟨hsound, hs.aligned, hs.lockStep, hs.doneRest, hs.handlerRest, hs.ordered⟩
  | act i hturn hw hx =>
    have he := exec_effect hx
    have ha : t.cfg.startAligned = true := he.cfg ▸ hs.aligned
    cases hi : s.hostInited with
    | true => exact ((hs.inStep hi).effect hs.sound hs.aligned hi hw he).aligned hsound ha
    | false =>
      obtain rfl | rfl := he.of_not_inited hi
      · exact hs
      · exact s.initialised_inStep.aligned hsound ha

end Sys2Proof.Machine
end

section
/-! PROOFS. Fair executions: what every moment keeps, what the host sees of the machine, and the rules that lead
from one moment to a later one (00_scope.md R9, 40_edge_clock_generator.md R77, 42_clock_channel.md R95). -/

namespace Sys2Proof.Machine

/-! ## The agents of the operations -/

theorem encode_injective : Function.Injective encode := fun i j h => by
  have := congrArg decode h
  simpa using this

/-- The operations of class HC and SW are the foreground's and the interrupt context's (R57). -/
theorem agent_cases (i : Instr) :
    i.opClass = .ev ∨ i.agent = .foreground ∨ i.agent = .interrupt := by
  cases i <;> simp [Instr.opClass, Instr.agent]

theorem opClass_ne_ev {i : Instr} (h : i.agent = .foreground ∨ i.agent = .interrupt) :
    i.opClass ≠ .ev := by
  cases i <;> simp_all [Instr.opClass, Instr.agent]

@[simp] theorem State.nextWord_turns (s : State) (ts : List Turn) (a : Agent) :
    State.nextWord { s with turns := ts } a = s.nextWord a := by
  cases a <;> rfl

/-- With no completion pending and the handler not running, the interrupt context changes nothing. -/
theorem Effect.interrupt_rest {i : Instr} {s t : State} (h : Effect s i t) (ha : i.agent = .interrupt)
    (hw : s.nextWord i.agent = some (encode i)) (hinh : s.hostInh = false) (hdone : s.sigDone = false) :
    t = s := by
  rw [ha] at hw
  obtain ⟨-, hrun | henter⟩ := (State.nextWord_interrupt _ _).1 hw
  · simp [hinh] at hrun
  · obtain rfl := eq_irqEnter ha henter
    cases h with
    | held => rfl
    | irqEnter _ h => simp [hdone] at h

/-- A foreground that waits for the latch interval changes nothing while the Active flag is set. -/
theorem Effect.foreground_waits {i : Instr} {s t : State} (h : Effect s i t) (ha : i.agent = .foreground)
    (hw : s.nextWord i.agent = some (encode i))
    (hwait : s.nextWord .foreground = some (encode .gateWaitLatch)) (hact : s.gateActive = true) :
    t = s := by
  rw [ha, hwait, Option.some.injEq] at hw
  obtain rfl := encode_injective hw
  cases h with
  | held => rfl
  | gateWaitLatch _ h => simp [hact] at h

/-! ## Moments of an execution -/

section Moments

variable {ρ : Nat → State} {τ : Nat → Turn}

theorem IsExecution.takeTurn (he : IsExecution ρ τ) (m : Nat) :
    Machine.takeTurn (τ m) { ρ m with turns := [] } = .next (ρ (m + 1)) := by
  obtain ⟨hc, hp, -⟩ := step_effect (he m)
  rw [← he m, step_of_turn hc hp rfl]

theorem IsExecution.move (he : IsExecution ρ τ) (m : Nat) :
    Move { ρ m with turns := [] } (τ m) (ρ (m + 1)) := (he.effect m).move

/-- An operation that is taken is performed. -/
theorem IsExecution.exec_of_takes (he : IsExecution ρ τ) {i : Instr} {m : Nat} (h : Takes ρ τ i m) :
    exec i { ρ m with turns := [] } = .next (ρ (m + 1)) := by
  obtain ⟨hturn, hw, -⟩ := h
  rw [← he.takeTurn m, hturn]
  exact (takeTurn_of_nextWord (by rw [State.nextWord_turns, hw]) (decode_encode i) rfl).symm

theorem IsExecution.cfg_succ (he : IsExecution ρ τ) (m : Nat) : (ρ (m + 1)).cfg = (ρ m).cfg := by
  cases he.move m with
  | outside _ _ _ _ _ ht => rw [ht]
  | act _ _ _ hx => exact (exec_effect hx).cfg

theorem IsExecution.cfg (he : IsExecution ρ τ) (m : Nat) : (ρ m).cfg = (ρ 0).cfg := by
  induction m with
  | zero => rfl
  | succ m ih => rw [he.cfg_succ, ih]

theorem IsExecution.now_mono (he : IsExecution ρ τ) : Monotone fun m => (ρ m).now := by
  refine monotone_nat_of_le_succ fun m => ?_
  cases he.move m with
  | outside _ _ _ _ hnow ht => rw [ht]; exact hnow
  | act _ _ _ hx => exact (exec_effect hx).now.ge

/-- What claims on progress start from: an aligned state after INIT, the generator running. -/
structure State.Live (s : State) : Prop where
  aligned : s.Aligned
  inited : s.hostInited = true
  running : s.ecgRun = true

theorem State.Live.inStep {s : State} (h : s.Live) : s.InStep := h.aligned.inStep h.inited

theorem State.Live.withTurns {s : State} (h : s.Live) (ts : List Turn) :
    State.Live { s with turns := ts } :=
  have hs := h.aligned.sound
  have hi := h.inStep
  ⟨State.InStep.aligned ⟨hi.lockStep, hi.doneRest, hi.handlerRest, hi.ordered⟩
    ⟨hs.cfgValid, hs.memWf, hs.dchRest, hs.cchRest, hs.dchIdxLt, hs.cchIdxLt, hs.ctsLe, hs.racedRest⟩
    h.aligned.aligned, h.inited, h.running⟩

theorem IsExecution.live (he : IsExecution ρ τ) {n m : Nat} (h : (ρ n).Live) (hm : n ≤ m) :
    (ρ m).Live := by
  induction m, hm using Nat.le_induction with
  | base => exact h
  | succ m _ ih =>
    have hal := (ih.withTurns []).aligned.turn (he.effect m)
    cases he.move m with
    | outside _ _ _ _ _ ht => exact ⟨hal, by rw [ht]; exact ih.inited, by rw [ht]; exact ih.running⟩
    | act _ _ _ hx =>
      obtain ⟨hi, hr⟩ := (exec_effect hx).inited ih.inited
      exact ⟨hal, hi, hr.trans ih.running⟩

/-- What holds at one moment and not at every later one ends at some step. -/
theorem exists_step_out {P : Nat → Prop} {n : Nat} (h0 : P n) (h : ¬ ∀ m, n ≤ m → P m) :
    ∃ m, n ≤ m ∧ P m ∧ ¬ P (m + 1) := by
  by_contra hc
  push Not at hc
  exact h fun m hm => Nat.le_induction h0 hc m hm

/-- From every moment on from `n` where `P` holds, a moment where `Q` holds comes. -/
def LeadsFrom (ρ : Nat → State) (n : Nat) (P Q : State → Prop) : Prop :=
  ∀ k, n ≤ k → P (ρ k) → ∃ m, k ≤ m ∧ Q (ρ m)

theorem LeadsFrom.trans {n : Nat} {P Q R : State → Prop} (h : LeadsFrom ρ n P Q)
    (h' : LeadsFrom ρ n Q R) : LeadsFrom ρ n P R := fun k hk hP => by
  obtain ⟨m, hm, hQ⟩ := h k hk hP
  obtain ⟨l, hl, hR⟩ := h' m (by omega) hQ
  exact ⟨l, by omega, hR⟩

end Moments

/-! ## What the host's operations read and write while the channels are disabled -/

/-- The state without what the generator, time and the caller change: the part that stays as it is, with the
channels disabled, until the host performs an operation. -/
def State.hostView (s : State) : State :=
  { s with
    ecgNext := .A, latA := false, latB := false, now := 0, mem := [], owned := [], raced := []
    turns := [], draws := 0 }

theorem State.nextWord_hostView (s : State) {a : Agent} (ha : a = .foreground ∨ a = .interrupt) :
    s.hostView.nextWord a = s.nextWord a := by
  rcases ha with rfl | rfl <;> rfl

/-- With the channels disabled the hardware changes nothing the host sees. -/
theorem Effect.hostView_of_event {i : Instr} {s t : State} (h : Effect s i t) (hi : i.opClass = .ev)
    (hd : s.dchEn = false) (hc : s.cchEn = false) : t.hostView = s.hostView := by
  cases h with
  | held => rfl
  | edgeA => rfl
  | edgeB => rfl
  | dchXfer _ hon => simp [hd] at hon
  | cchXfer _ hon => simp [hc] at hon
  | _ => cases hi

/-- In the view `v` the operation `i` is the host's next one, and nothing else changes the view. -/
structure State.HostDue (v : State) (i : Instr) : Prop where
  running : v.ecgRun = true
  inited : v.hostInited = true
  host : i.agent = .foreground ∨ i.agent = .interrupt
  word : v.nextWord i.agent = some (encode i)
  only : ∀ s j t, s.hostView = v → s.nextWord j.agent = some (encode j) → Effect s j t →
    j = i ∨ t.hostView = v

/-- After INIT, the generator running, with both channels disabled. -/
structure State.Quiet (v : State) : Prop where
  running : v.ecgRun = true
  inited : v.hostInited = true
  dchOff : v.dchEn = false
  cchOff : v.cchEn = false

/-- The foreground's next operation is due when no completion is pending and the handler is not running. -/
theorem State.Quiet.foregroundDue {v : State} {i : Instr} (h : v.Quiet) (hinh : v.hostInh = false)
    (hdone : v.sigDone = false) (ha : i.agent = .foreground)
    (hw : v.nextWord .foreground = some (encode i)) : v.HostDue i := by
  refine ⟨h.running, h.inited, .inl ha, ha ▸ hw, ?_⟩
  rintro s j t rfl hj he
  rcases agent_cases j with hev | hfg | hih
  · exact .inr (he.hostView_of_event hev h.dchOff h.cchOff)
  · rw [hfg, ← s.nextWord_hostView (.inl rfl), hw, Option.some.injEq] at hj
    exact .inl (encode_injective hj).symm
  · exact .inr (by rw [he.interrupt_rest hih hj hinh hdone])

/-- The handler's next operation is due while it runs, since it preempts the foreground (R147). -/
theorem State.Quiet.handlerDue {v : State} {i : Instr} (h : v.Quiet) (hinh : v.hostInh = true)
    (ha : i.agent = .interrupt) (hw : v.ihProg[v.ihPos]? = some (encode i)) : v.HostDue i := by
  have hword : v.nextWord .interrupt = some (encode i) :=
    (State.nextWord_interrupt _ _).2 ⟨hw, .inl hinh⟩
  refine ⟨h.running, h.inited, .inr ha, ha ▸ hword, ?_⟩
  rintro s j t rfl hj he
  rcases agent_cases j with hev | hfg | hih
  · exact .inr (he.hostView_of_event hev h.dchOff h.cchOff)
  · rw [hfg] at hj
    have hnot : s.hostInh = false := ((State.nextWord_foreground _ _).1 hj).1
    exact absurd (hnot.symm.trans hinh) (by decide)
  · rw [hih, ← s.nextWord_hostView (.inr rfl), hword, Option.some.injEq] at hj
    exact .inl (encode_injective hj).symm

/-- The entry of the handler is due while the foreground waits with the Active flag set. -/
theorem State.Quiet.entryDue {v : State} (h : v.Quiet)
    (hwait : v.nextWord .foreground = some (encode .gateWaitLatch)) (hact : v.gateActive = true)
    (hw : v.ihProg[v.ihPos]? = some (encode .irqEnter)) : v.HostDue .irqEnter := by
  have hword : v.nextWord .interrupt = some (encode .irqEnter) :=
    (State.nextWord_interrupt _ _).2 ⟨hw, .inr rfl⟩
  refine ⟨h.running, h.inited, .inr rfl, hword, ?_⟩
  rintro s j t rfl hj he
  rcases agent_cases j with hev | hfg | hih
  · exact .inr (he.hostView_of_event hev h.dchOff h.cchOff)
  · rw [s.nextWord_hostView (.inl rfl)] at hwait
    exact .inr (by rw [he.foreground_waits hfg hj hwait hact])
  · rw [hih, ← s.nextWord_hostView (.inr rfl), hword, Option.some.injEq] at hj
    exact .inl (encode_injective hj).symm

section HostProgress

variable {ρ : Nat → State} {τ : Nat → Turn} {v : State} {i : Instr} {n : Nat}

/-- The view of the host ends by the operation that is due. -/
theorem IsExecution.hostDue_performed (he : IsExecution ρ τ) (hdue : v.HostDue i)
    (h0 : (ρ n).hostView = v) (h : ¬ ∀ m, n ≤ m → (ρ m).hostView = v) :
    ∃ m, n ≤ m ∧ (ρ m).hostView = v ∧ (ρ (m + 1)).hostView ≠ v ∧ τ m = .agent i.agent ∧
      exec i { ρ m with turns := [] } = .next (ρ (m + 1)) := by
  obtain ⟨m, hm, hv, hout⟩ := exists_step_out (P := fun m => (ρ m).hostView = v) h0 h
  cases he.move m with
  | outside _ _ _ _ _ ht => exact absurd (by rw [ht]; exact hv) hout
  | act j hturn hw hx =>
    obtain rfl := (hdue.only { ρ m with turns := [] } j _ hv hw (exec_effect hx)).resolve_right hout
    exact ⟨m, hm, hv, hout, hturn, hx⟩

theorem State.HostDue.nextWord (hdue : v.HostDue i) {s : State} (hv : s.hostView = v) :
    s.nextWord i.agent = some (encode i) := by
  rw [← s.nextWord_hostView hdue.host, hv, hdue.word]

/-- A due operation that is enabled from some moment on, as long as the view stays, ends the view. -/
theorem IsExecution.hostDue_ends (he : IsExecution ρ τ) (hfair : WeaklyFair ρ τ i) (hdue : v.HostDue i)
    (k : Nat) (hx : ∀ m, k ≤ m → ∀ ts, (ρ m).hostView = v →
      ∃ t, exec i { ρ m with turns := ts } = .next t ∧ t.hostView ≠ v) :
    ¬ ∀ m, n ≤ m → (ρ m).hostView = v := by
  intro hall
  obtain ⟨m, hm, ht⟩ := hfair (max n k) fun m hm => by
    have hv := hall m (by omega)
    obtain ⟨t, ht, hne⟩ := hx m (by omega) (ρ m).turns hv
    have hrun : (ρ m).ecgRun = true := (congrArg State.ecgRun hv).trans hdue.running
    exact ⟨hrun, hdue.nextWord hv, t, ht, fun h => hne (h ▸ hv)⟩
  obtain ⟨t, htx, hne⟩ := hx m (by omega) [] (hall m (by omega))
  rw [he.exec_of_takes ht, Host.Outcome.next.injEq] at htx
  exact hne (htx ▸ hall (m + 1) (by omega))

/-- The rule for one operation of the host: a due operation that changes the view wherever it is performed
comes to be performed. -/
theorem IsExecution.hostDue_leads (he : IsExecution ρ τ) (hfair : WeaklyFair ρ τ i) (hdue : v.HostDue i)
    {Q : State → Prop} (hx : ∀ s, s.hostView = v → ∃ t, exec i s = .next t ∧ Q t.hostView)
    (hne : ¬ Q v) : LeadsFrom ρ n (fun s => s.hostView = v) (fun s => Q s.hostView) := by
  intro k _ h0
  have hends := he.hostDue_ends (n := k) hfair hdue 0 fun m _ ts hv => by
    obtain ⟨t, ht, hQ⟩ := hx { ρ m with turns := ts } hv
    exact ⟨t, ht, fun h => hne (h ▸ hQ)⟩
  obtain ⟨m, hm, hv, -, -, hexec⟩ := he.hostDue_performed hdue h0 hends
  obtain ⟨t, ht, hQ⟩ := hx { ρ m with turns := [] } hv
  rw [hexec, Host.Outcome.next.injEq] at ht
  exact ⟨m + 1, by omega, ht ▸ hQ⟩

end HostProgress

end Sys2Proof.Machine
end

section
/-! PROOFS. A transfer under way completes, an admitted XFER.GO is taken, and the latch interval passes, in every
fair execution (40_edge_clock_generator.md R77, 42_clock_channel.md R95, 60_exceptions.md R153). -/

namespace Sys2Proof.Machine

/-! ## A transfer under way -/

/-- The state without what the host, time and the caller change while a channel is enabled. -/
def State.channelView (s : State) : State :=
  { s with
    gateActive := false, gateCts := 0, now := 0, mem := [], owned := [], raced := []
    fgPos := 0, busyResults := [], turns := [], draws := 0 }

/-- While a channel is enabled no operation of the host changes the channels, the generator or the port. -/
theorem State.Live.effect_busy {i : Instr} {s t : State} (h : s.Live) (hc : s.cchEn = true)
    (hw : s.nextWord i.agent = some (encode i)) (he : Effect s i t) :
    i.opClass = .ev ∨ t.channelView = s.channelView := by
  rcases agent_cases i with hev | hfg | hih
  · exact .inl hev
  · right
    have hinit := h.inited
    have haligned := h.aligned.aligned
    cases he with
    | init h => simp [hinit] at h
    | dchArm _ _ _ h => simp [hc] at h
    | xferGo _ _ h => simp [hc] at h
    | xferDisable _ _ h => simp [hc] at h
    | latchClr _ h => simp [haligned] at h
    | dchStart _ _ h => simp [haligned] at h
    | cchStart _ _ h => simp [haligned] at h
    | bufScrub => rw [State.scrubWords_eta]; rfl
    | held => rfl
    | gateWaitIdle => rfl
    | gateSetActive => rfl
    | bufSkip => rfl
    | gateWaitLatch => rfl
    | gateBusy => rfl
    | _ => cases hfg
  · exact .inr (by rw [he.interrupt_rest hih hw (h.inStep.not_handling hc) (h.inStep.not_done hc)])

/-- How many events of the hardware are left of the pass: four for each tick to come, and those of this one. -/
def State.eventsLeft (s : State) : Nat :=
  4 * (s.cfg.n - s.cchIdx) +
    if s.latA then 3 else if s.latB then 1 else if s.ecgNext = .A then 4 else 2

theorem State.eventsLeft_channelView (s : State) : s.channelView.eventsLeft = s.eventsLeft := rfl

/-- The transfer is over and its completion pending. -/
def State.Completed (s : State) : Prop := s.dchEn = false ∧ s.cchEn = false ∧ s.sigDone = true

/-- The latches are clear where the generator is not held. -/
theorem State.Live.latches_clear {s : State} (h : s.Live) (hc : s.cchEn = true)
    (hp : s.servicePending = false) : s.latA = false ∧ s.latB = false := by
  obtain ⟨hA, hB⟩ := State.servicePending_eq_false hp
  refine ⟨?_, hB hc⟩
  rcases h.inStep.lockStep.busy hc with hdata | hclock
  · exact hA hdata.dchOn
  · exact hclock.latA

/-- An event of the hardware brings a transfer nearer to its end, or is its end. -/
theorem State.Live.event_advances {i : Instr} {s t : State} (h : s.Live) (hc : s.cchEn = true)
    (hi : i.opClass = .ev) (he : Effect s i t) :
    t = s ∨ t.Completed ∨ (t.cchEn = true ∧ t.dchArmed = s.dchArmed ∧ t.eventsLeft < s.eventsLeft) := by
  cases he with
  | held => exact .inl rfl
  | edgeA _ _ hn hp =>
    obtain ⟨hA, hB⟩ := h.latches_clear hc hp
    exact .inr (.inr ⟨hc, rfl, by simp [State.eventsLeft, hA, hB, hn]⟩)
  | edgeB _ _ hn hp =>
    obtain ⟨hA, hB⟩ := h.latches_clear hc hp
    exact .inr (.inr ⟨hc, rfl, by simp [State.eventsLeft, hA, hB, hn]⟩)
  | dchXfer _ hd hl =>
    have hdata := h.inStep.lockStep.atData hd hl
    exact .inr (.inr ⟨hc, rfl, by simp [State.eventsLeft, hl, hdata.latB, hdata.next_of_latA hl]⟩)
  | cchXfer _ _ hl =>
    have hclock := h.inStep.lockStep.atClock hc hl
    have hnext := hclock.serveClock hl
    right
    split_ifs at hnext with hlast
    · exact .inl ⟨hnext.dchOff, hnext.cchOff, by simp [hlast]⟩
    · have hlt := h.aligned.sound.cchIdxLt
      have hidx := nextIdx_of_not_last hlt (by simpa using hlast)
      refine .inr ⟨hnext.cchOn, rfl, ?_⟩
      simp only [State.eventsLeft, State.serveClock_cfg, State.serveClock_cchIdx, State.serveClock_latA,
        State.serveClock_latB, State.serveClock_ecgNext, hidx, hclock.latA, hl, hclock.next_of_latB hl]
      simp only [Bool.false_eq_true, if_true, if_false]
      omega
  | _ => cases hi

/-- The event of the hardware that is next in a transfer. -/
def State.dueEvent (s : State) : Instr :=
  if s.latA then .dchXfer else if s.latB then .cchXfer else if s.ecgNext = .A then .edgeA else .edgeB

theorem State.dueEvent_channelView (s : State) : s.channelView.dueEvent = s.dueEvent := rfl

theorem State.dueEvent_opClass (s : State) : s.dueEvent.opClass = .ev := by
  unfold State.dueEvent
  split_ifs <;> rfl

theorem exec_edgeA {s : State} (hi : s.hostInited = true) (hr : s.ecgRun = true) (hn : s.ecgNext = .A)
    (hp : s.servicePending = false) : exec .edgeA s = .next (s.edge .A) := by
  simp [exec, execEdgeA, State.edgeEnabled, hi, hr, hn, hp]

theorem exec_edgeB {s : State} (hi : s.hostInited = true) (hr : s.ecgRun = true) (hn : s.ecgNext = .B)
    (hp : s.servicePending = false) : exec .edgeB s = .next (s.edge .B) := by
  simp [exec, execEdgeB, State.edgeEnabled, hi, hr, hn, hp]

/-- The event that is next in a transfer has a step, if the word it may read lies in declared memory. -/
theorem State.Live.dueEvent_enabled {s : State} (h : s.Live) (hc : s.cchEn = true)
    (hread : s.dchReadAdmitted = true) :
    s.nextWord s.dueEvent.agent = some (encode s.dueEvent) ∧
      ∃ t, exec s.dueEvent s = .next t ∧ t.channelView ≠ s.channelView := by
  have hinit := h.inited
  have hrun := h.running
  have hbusy := h.inStep.lockStep.busy hc
  by_cases hA : s.latA = true
  · have hd : s.dchEn = true := by
      rcases hbusy with hdata | hclock
      · exact hdata.dchOn
      · simp [hclock.latA] at hA
    have hdue : s.dueEvent = .dchXfer := by simp [State.dueEvent, hA]
    rw [hdue]
    refine ⟨rfl, s.serveData, by simp [exec, execDchXfer, State.dchTriggered, hinit, hd, hA, hread], ?_⟩
    exact fun he => by simpa [State.channelView, hA] using congrArg State.latA he
  · by_cases hB : s.latB = true
    · have hdue : s.dueEvent = .cchXfer := by simp [State.dueEvent, hA, hB]
      rw [hdue]
      refine ⟨rfl, s.serveClock, by simp [exec, execCchXfer, State.cchTriggered, hinit, hc, hB], ?_⟩
      exact fun he => by simpa [State.channelView, hB] using congrArg State.latB he
    · rw [Bool.not_eq_true] at hA hB
      have hp : s.servicePending = false := by simp [State.servicePending, hA, hB]
      cases hn : s.ecgNext with
      | A =>
        have hdue : s.dueEvent = .edgeA := by simp [State.dueEvent, hA, hB, hn]
        rw [hdue]
        refine ⟨by simp [State.nextWord, Instr.agent, hn], _, exec_edgeA hinit hrun hn hp, ?_⟩
        exact fun he => by simpa [State.channelView, State.edge, hn] using congrArg State.ecgNext he
      | B =>
        have hdue : s.dueEvent = .edgeB := by simp [State.dueEvent, hA, hB, hn]
        rw [hdue]
        refine ⟨by simp [State.nextWord, Instr.agent, hn], _, exec_edgeB hinit hrun hn hp, ?_⟩
        exact fun he => by simpa [State.channelView, State.edge, hn] using congrArg State.ecgNext he

/-- The next word of a declared buffer may be read (R35, R83). -/
theorem State.dchReadAdmitted_of_ownsBuffer {s : State} (harm : s.dchArmed = true)
    (hlt : s.dchIdx < s.cfg.n) (h : s.ownsBuffer s.dchSrc.toNat = true) : s.dchReadAdmitted = true := by
  simp only [State.ownsBuffer, List.all_eq_true, List.mem_range] at h
  have h0 : s.owns s.dchAddr = true := h (2 * s.dchIdx) (by omega)
  have h1 : s.owns (s.dchAddr + 1) = true := h (2 * s.dchIdx + 1) (by omega)
  rw [State.dchReadAdmitted, harm, h0, h1]
  rfl

section Progress

variable {ρ : Nat → State} {τ : Nat → Turn} {n : Nat}

/-- A transfer under way does not stand still. -/
theorem IsExecution.transfer_moves (he : IsExecution ρ τ) (hf : Fair ρ τ) (hlive : (ρ n).Live)
    (hown : ∀ m, n ≤ m → (ρ m).ownsBuffer (ρ m).dchSrc.toNat = true)
    (hc : (ρ n).cchEn = true) (harm : (ρ n).dchArmed = true) :
    ¬ ∀ m, n ≤ m → (ρ m).channelView = (ρ n).channelView := by
  intro hall
  have hstep (m : Nat) (hm : n ≤ m) (ts : List Turn) :
      (ρ m).nextWord (ρ n).dueEvent.agent = some (encode (ρ n).dueEvent) ∧
        ∃ t, exec (ρ n).dueEvent { ρ m with turns := ts } = .next t ∧
          t.channelView ≠ (ρ n).channelView := by
    have hv := hall m hm
    have hlive' := he.live hlive hm
    have hdue : (ρ m).dueEvent = (ρ n).dueEvent := by
      rw [← State.dueEvent_channelView, hv, State.dueEvent_channelView]
    have hc' : (ρ m).cchEn = true := (congrArg State.cchEn hv).trans hc
    have harm' : (ρ m).dchArmed = true := (congrArg State.dchArmed hv).trans harm
    have hread := State.dchReadAdmitted_of_ownsBuffer harm' hlive'.aligned.sound.dchIdxLt (hown m hm)
    obtain ⟨hw, t, ht, hne⟩ := (hlive'.withTurns ts).dueEvent_enabled hc' hread
    rw [State.nextWord_turns] at hw
    exact ⟨hdue ▸ hw, t, hdue ▸ ht, fun h => hne (h.trans hv.symm)⟩
  obtain ⟨m, hm, ht⟩ := hf.events (ρ n).dueEvent (State.dueEvent_opClass _) n fun m hm => by
    obtain ⟨hw, t, ht, hne⟩ := hstep m hm (ρ m).turns
    exact ⟨(he.live hlive hm).running, hw, t, ht, fun h => hne (h ▸ hall m hm)⟩
  obtain ⟨-, t, htx, hne⟩ := hstep m hm []
  rw [he.exec_of_takes ht, Host.Outcome.next.injEq] at htx
  exact hne (htx ▸ hall (m + 1) (by omega))

/-- A transfer under way on a buffer that stays declared completes (R77, R174). -/
theorem IsExecution.transfer_completes (he : IsExecution ρ τ) (hf : Fair ρ τ) (hlive : (ρ n).Live)
    (hown : ∀ m, n ≤ m → (ρ m).ownsBuffer (ρ m).dchSrc.toNat = true)
    (hc : (ρ n).cchEn = true) (harm : (ρ n).dchArmed = true) : ∃ m, n ≤ m ∧ (ρ m).Completed := by
  induction hk : (ρ n).eventsLeft using Nat.strong_induction_on generalizing n with
  | _ k ih =>
    obtain ⟨m, hm, hv, hout⟩ := exists_step_out
      (P := fun m => (ρ m).channelView = (ρ n).channelView) rfl
      (he.transfer_moves hf hlive hown hc harm)
    have hlive' := (he.live hlive hm).withTurns []
    have hc' : (ρ m).cchEn = true := (congrArg State.cchEn hv).trans hc
    cases he.move m with
    | outside _ _ _ _ _ ht => exact absurd (by rw [ht]; exact hv) hout
    | act i hturn hw hx =>
      have hev := (hlive'.effect_busy hc' hw (exec_effect hx)).resolve_right
        fun h => hout (h.trans hv)
      obtain hsame | hdone | ⟨hc'', harm', hlt⟩ := hlive'.event_advances hc' hev (exec_effect hx)
      · exact absurd (by rw [hsame]; exact hv) hout
      · exact ⟨m + 1, by omega, hdone⟩
      · have hleft : (ρ m).eventsLeft = (ρ n).eventsLeft := by
          rw [← State.eventsLeft_channelView, hv, State.eventsLeft_channelView]
        have harm'' : (ρ m).dchArmed = true := (congrArg State.dchArmed hv).trans harm
        obtain ⟨l, hl, hdone⟩ := ih _ (hk ▸ hleft ▸ hlt) (he.live hlive (by omega))
          (fun l hl => hown l (by omega)) hc'' (harm'.trans harm'') rfl
        exact ⟨l, by omega, hdone⟩

/-! ## XFER.GO -/

/-- While the host's view stays with the channels disabled, edge A is next again and again (R77). -/
theorem IsExecution.edgeA_recurs (he : IsExecution ρ τ) (hf : Fair ρ τ) {v : State} (hq : v.Quiet)
    (hall : ∀ m, n ≤ m → (ρ m).hostView = v) : ∃ m, n ≤ m ∧ (ρ m).ecgNext = .A := by
  by_contra hc
  push Not at hc
  have hB (m : Nat) (hm : n ≤ m) : (ρ m).ecgNext = .B := by
    cases h : (ρ m).ecgNext with
    | A => exact absurd h (hc m hm)
    | B => rfl
  have hstep (m : Nat) (hm : n ≤ m) (ts : List Turn) :
      exec .edgeB { ρ m with turns := ts } = .next (State.edge { ρ m with turns := ts } .B) := by
    have hi : (ρ m).hostInited = true := (congrArg State.hostInited (hall m hm)).trans hq.inited
    have hr : (ρ m).ecgRun = true := (congrArg State.ecgRun (hall m hm)).trans hq.running
    have hd : (ρ m).dchEn = false := (congrArg State.dchEn (hall m hm)).trans hq.dchOff
    have hcc : (ρ m).cchEn = false := (congrArg State.cchEn (hall m hm)).trans hq.cchOff
    exact exec_edgeB hi hr (hB m hm) (by simp [State.servicePending, hd, hcc])
  obtain ⟨m, hm, ht⟩ := hf.events .edgeB rfl n fun m hm => by
    refine ⟨(congrArg State.ecgRun (hall m hm)).trans hq.running, ?_, _, hstep m hm (ρ m).turns, ?_⟩
    · simp [State.nextWord, Instr.agent, hB m hm]
    · exact fun h => by simpa [State.edge, hB m hm] using congrArg State.ecgNext h
  have hx := he.exec_of_takes ht
  rw [hstep m hm [], Host.Outcome.next.injEq] at hx
  exact hc (m + 1) (by omega) (hx ▸ rfl)

theorem exec_xferGo {s : State} (hi : s.hostInited = true) (hd : s.dchEn = false) (hc : s.cchEn = false)
    (hdone : s.sigDone = false) (hp : s.startInPhase = true) :
    exec .xferGo s =
      .next { s with latA := false, latB := false, dchEn := true, cchEn := true }.fgNext := by
  simp [exec, execXferGo, afterInit, State.channelEnabled, hi, hd, hc, hdone, hp]

/-- XFER.GO is held, or starts both channels in phase. -/
theorem Effect.xferGo_cases {s t : State} (h : Effect s .xferGo t) :
    t = s ∨ (s.startInPhase = true ∧
      t = { s with latA := false, latB := false, dchEn := true, cchEn := true }.fgNext) := by
  cases h with
  | held => exact .inl rfl
  | xferGo _ _ _ _ hp => exact .inr ⟨hp, rfl⟩

/-- A due XFER.GO has a step once the phase is right. -/
theorem State.Quiet.xferGo_exec {v s : State} (hq : v.Quiet) (hdone : v.sigDone = false)
    (hv : s.hostView = v) (hp : s.startInPhase = true) :
    exec .xferGo s =
      .next { s with latA := false, latB := false, dchEn := true, cchEn := true }.fgNext := by
  subst hv
  exact exec_xferGo hq.inited hq.dchOff hq.cchOff hdone hp

theorem State.HostDue.xferGo_enabled {v s : State} (hdue : v.HostDue .xferGo) (hq : v.Quiet)
    (hdone : v.sigDone = false) (hv : s.hostView = v) (hp : s.startInPhase = true) :
    s.Enabled .xferGo := by
  refine ⟨hdue.nextWord hv, _, hq.xferGo_exec hdone hv hp, fun h => ?_⟩
  have hpos : s.fgPos + 1 = s.fgPos := congrArg State.fgPos h
  omega

/-- A due XFER.GO ends the view: it is enabled at every edge A to come (R77), so it is taken. -/
theorem IsExecution.xferGo_ends (he : IsExecution ρ τ) (hf : Fair ρ τ) {v : State} (hq : v.Quiet)
    (hdue : v.HostDue .xferGo) (hdone : v.sigDone = false) (ha : v.cfg.startAligned = true) :
    ¬ ∀ m, n ≤ m → (ρ m).hostView = v := by
  intro hall
  have haligned : (ρ 0).cfg.startAligned = true := by
    rw [← he.cfg n, ← ha, ← hall n le_rfl]
    rfl
  obtain ⟨m, hm, ht⟩ := hf.go haligned (fun k => by
    obtain ⟨m, hm, hn⟩ := he.edgeA_recurs (n := max n k) hf hq fun m hm => hall m (by omega)
    exact ⟨m, by omega,
      hdue.xferGo_enabled hq hdone (hall m (by omega)) (by simp [State.startInPhase, hn])⟩) n
  obtain ⟨-, -, t, hx, hne⟩ := id ht
  obtain hheld | ⟨hp, -⟩ := (exec_effect hx).xferGo_cases
  · exact hne hheld
  · have hon := hq.xferGo_exec (s := { ρ m with turns := [] }) hdone (hall m hm) hp
    rw [he.exec_of_takes ht, Host.Outcome.next.injEq] at hon
    have hc : (ρ (m + 1)).cchEn = false :=
      (congrArg State.cchEn (hall (m + 1) (by omega))).trans hq.cchOff
    rw [hon] at hc
    cases hc

/-- A due XFER.GO is taken, and enables both channels (R95). -/
theorem IsExecution.xferGo_taken (he : IsExecution ρ τ) (hf : Fair ρ τ) {v : State} (hq : v.Quiet)
    (hdue : v.HostDue .xferGo) (hdone : v.sigDone = false) (ha : v.cfg.startAligned = true)
    (h0 : (ρ n).hostView = v) :
    ∃ m, n ≤ m ∧ Takes ρ τ .xferGo m ∧
      (ρ (m + 1)).hostView = { v with dchEn := true, cchEn := true }.fgNext := by
  obtain ⟨m, hm, hv, hout, hturn, hx⟩ :=
    he.hostDue_performed hdue h0 (he.xferGo_ends hf hq hdue hdone ha)
  obtain hheld | ⟨hp, hon⟩ := (exec_effect hx).xferGo_cases
  · exact absurd (by rw [hheld]; exact hv) hout
  · exact ⟨m, hm, ⟨hturn, hdue.xferGo_enabled hq hdone hv hp⟩, by rw [hon, ← hv]; rfl⟩

/-! ## The latch interval -/

theorem exec_gateWaitLatch {s : State} (hi : s.hostInited = true) (ha : s.gateActive = false)
    (hl : s.latchElapsed = true) : exec .gateWaitLatch s = .next s.fgNext := by
  simp [exec, execGateWaitLatch, afterInit, hi, ha, hl]

/-- GATE.WAITLATCH is held, or the latch interval has passed. -/
theorem Effect.gateWaitLatch_cases {s t : State} (h : Effect s .gateWaitLatch t) :
    t = s ∨ (s.latchElapsed = true ∧ t = s.fgNext) := by
  cases h with
  | held => exact .inl rfl
  | gateWaitLatch _ _ hl => exact .inr ⟨hl, rfl⟩

/-- A latch interval passes while the view of the host stays, and has passed from then on (R153). -/
theorem IsExecution.latch_elapses (he : IsExecution ρ τ) (ht : TimePasses ρ) {v : State}
    (hall : ∀ m, n ≤ m → (ρ m).hostView = v) :
    ∃ k, n ≤ k ∧ ∀ m, k ≤ m → (ρ m).latchElapsed = true := by
  obtain ⟨k, hk⟩ := ht (v.cfg.tLatch + v.gateCts)
  refine ⟨max n k, by omega, fun m hm => ?_⟩
  have hnow : (ρ k).now ≤ (ρ m).now := he.now_mono (by omega)
  have hv := hall m (by omega)
  have hcfg : (ρ m).cfg = v.cfg := by rw [← hv]; rfl
  have hcts : (ρ m).gateCts = v.gateCts := by rw [← hv]; rfl
  rw [State.latchElapsed, decide_eq_true_eq, hcfg, hcts]
  omega

theorem State.HostDue.gateWaitLatch_exec {v : State} (hdue : v.HostDue .gateWaitLatch)
    (ha : v.gateActive = false) {s : State} (hv : s.hostView = v) (hl : s.latchElapsed = true) :
    exec .gateWaitLatch s = .next s.fgNext := by
  subst hv
  exact exec_gateWaitLatch hdue.inited ha hl

theorem State.fgNext_hostView_ne (s : State) : s.fgNext.hostView ≠ s.hostView := fun h => by
  have : s.fgPos + 1 = s.fgPos := congrArg State.fgPos h
  omega

theorem State.HostDue.gateWaitLatch_enabled {v : State} (hdue : v.HostDue .gateWaitLatch)
    (ha : v.gateActive = false) {s : State} (hv : s.hostView = v) (hl : s.latchElapsed = true) :
    s.Enabled .gateWaitLatch :=
  ⟨hdue.nextWord hv, _, hdue.gateWaitLatch_exec ha hv hl,
    fun h => s.fgNext_hostView_ne (congrArg State.hostView h)⟩

/-- A due GATE.WAITLATCH with the Active flag clear comes to be enabled. -/
theorem IsExecution.gateWaitLatch_enabled (he : IsExecution ρ τ) (ht : TimePasses ρ) {v : State}
    (hdue : v.HostDue .gateWaitLatch) (ha : v.gateActive = false) (h0 : (ρ n).hostView = v) :
    ∃ m, n ≤ m ∧ (ρ m).Enabled .gateWaitLatch := by
  by_cases hall : ∀ m, n ≤ m → (ρ m).hostView = v
  · obtain ⟨k, hk, hl⟩ := he.latch_elapses ht hall
    exact ⟨k, hk, hdue.gateWaitLatch_enabled ha (hall k hk) (hl k le_rfl)⟩
  · obtain ⟨m, hm, hv, hout, -, hx⟩ := he.hostDue_performed hdue h0 hall
    obtain hheld | ⟨hl, -⟩ := (exec_effect hx).gateWaitLatch_cases
    · exact absurd (by rw [hheld]; exact hv) hout
    · exact ⟨m, hm, hdue.gateWaitLatch_enabled ha hv hl⟩

/-- If the host makes progress, it passes the wait, the latch interval being over. -/
theorem IsExecution.gateWaitLatch_passes (he : IsExecution ρ τ) (ht : TimePasses ρ)
    (hfair : WeaklyFair ρ τ .gateWaitLatch) {v : State} (hdue : v.HostDue .gateWaitLatch)
    (ha : v.gateActive = false) (h0 : (ρ n).hostView = v) :
    ∃ m, n ≤ m ∧ (ρ m).hostView = v.fgNext ∧ (ρ m).latchElapsed = true := by
  have hends : ¬ ∀ m, n ≤ m → (ρ m).hostView = v := by
    intro hall
    obtain ⟨k, -, hl⟩ := he.latch_elapses ht hall
    refine he.hostDue_ends (n := n) hfair hdue k (fun m hm ts hv => ?_) hall
    refine ⟨_, hdue.gateWaitLatch_exec (s := { ρ m with turns := ts }) ha hv (hl m hm), fun h => ?_⟩
    exact (ρ m).fgNext_hostView_ne (h.trans hv.symm)
  obtain ⟨m, hm, hv, hout, -, hx⟩ := he.hostDue_performed hdue h0 hends
  obtain hheld | ⟨hl, hnext⟩ := (exec_effect hx).gateWaitLatch_cases
  · exact absurd (by rw [hheld]; exact hv) hout
  · exact ⟨m + 1, by omega, by rw [hnext, ← hv]; rfl, by rw [hnext]; exact hl⟩

end Progress

end Sys2Proof.Machine
end

section
/-! PROOFS. A `show` returns in every fair execution in which the host makes progress: the foreground's
operations up to XFER.GO, the transfer, the handler, the last wait (45_transfer_gate.md R127, R133). -/

namespace Sys2Proof.Machine

/-! ## What the operations of a show and of the handler do -/

/-- GATE.SETACTIVE (R122). -/
def State.setActive (s : State) : State := { s with gateActive := true }.fgNext

/-- DCH.ARM (R81). -/
def State.arm (s : State) (buf : Addr) : State :=
  { s with dchSrc := buf, dchArmed := true, dchIdx := 0 }.fgNext

/-- XFER.GO, seen by the host (R95). -/
def State.started (s : State) : State := { s with dchEn := true, cchEn := true }.fgNext

/-- DONE.ACK (R112). -/
def State.acknowledged (s : State) : State := { s with sigDone := false }.ihNext

/-- PORT.IDLE (R103). -/
def State.idled (s : State) : State := (s.writePort .I 0 s.cfg.idleLevel).ihNext

/-- TS.RECORD at the time `cts` (R130). -/
def State.recorded (s : State) (cts : Nat) : State := { s with gateCts := cts }.ihNext

/-- GATE.CLRACTIVE (R132). -/
def State.clearActive (s : State) : State := { s with gateActive := false }.ihNext


section Exec

variable {s : State}

theorem exec_gateWaitIdle (hi : s.hostInited = true) (ha : s.gateActive = false) :
    exec .gateWaitIdle s = .next s.fgNext := by
  simp [exec, execGateWaitIdle, afterInit, hi, ha]

theorem exec_gateSetActive (hi : s.hostInited = true) :
    exec .gateSetActive s = .next s.setActive := by
  simp [State.setActive, exec, execGateSetActive, afterInit, hi]

/-- A scrub of an admitted buffer goes on, and changes memory and races only. -/
theorem exec_bufScrub {buf : Addr} (hi : s.hostInited = true) (ho : oddAddress buf = false)
    (hp : pastTop s.cfg buf = false) :
    ∃ t, exec (.bufScrub buf) s = .next t ∧ t.hostView = s.fgNext.hostView := by
  cases hk : s.cfg.skipclr with
  | true => exact ⟨s.fgNext, by simp [exec, execBufScrub, afterInit, hi, ho, hp, hk], rfl⟩
  | false =>
    refine ⟨(s.scrubWords buf.toNat s.cfg.n).fgNext,
      by simp [exec, execBufScrub, afterInit, hi, ho, hp, hk], ?_⟩
    rw [State.scrubWords_eta]
    rfl

theorem exec_dchArm {buf : Addr} (hi : s.hostInited = true) (hd : s.dchEn = false) (hc : s.cchEn = false)
    (ho : oddAddress buf = false) (hp : pastTop s.cfg buf = false) :
    exec (.dchArm buf) s = .next (s.arm buf) := by
  simp [State.arm, exec, execDchArm, afterInit, State.channelEnabled, hi, hd, hc, ho, hp]

theorem exec_irqEnter (hi : s.hostInited = true) (hdone : s.sigDone = true) (hinh : s.hostInh = false) :
    exec .irqEnter s = .next s.takeInterrupt := by
  simp [exec, execIrqEnter, afterInit, State.interruptEnabled, hi, hdone, hinh]

theorem exec_doneAck (hi : s.hostInited = true) :
    exec .doneAck s = .next s.acknowledged := by
  simp [State.acknowledged, exec, execDoneAck, afterInit, hi]

theorem exec_portIdle (hi : s.hostInited = true) :
    exec .portIdle s = .next s.idled := by
  simp [State.idled, exec, execPortIdle, afterInit, wholeSide, hi]

theorem exec_tsRecord (hi : s.hostInited = true) :
    exec .tsRecord s = .next (s.recorded s.now) := by
  simp [State.recorded, exec, execTsRecord, afterInit, hi]

theorem exec_gateClrActive (hi : s.hostInited = true) :
    exec .gateClrActive s = .next s.clearActive := by
  simp [State.clearActive, exec, execGateClrActive, afterInit, hi]

theorem exec_irqExit (hi : s.hostInited = true) (hinh : s.hostInh = true)
    (hlast : s.ihPos + 1 = s.ihProg.length) :
    exec .irqExit s = .next s.returnFromInterrupt := by
  simp [exec, execIrqExit, afterInit, State.handlerDone, hi, hinh, hlast]

end Exec

/-! ## One operation of the host comes to be performed -/

section Rules

variable {ρ : Nat → State} {τ : Nat → Turn} {n : Nat} {v w : State} {i : Instr}

/-- The rule for an operation after which the view is known and a position has moved. -/
theorem IsExecution.due_leads (he : IsExecution ρ τ) (hp : HostProgress ρ τ) (hdue : v.HostDue i)
    (hpos : w.fgPos ≠ v.fgPos ∨ w.ihPos ≠ v.ihPos)
    (hx : ∀ s, s.hostView = v → ∃ t, exec i s = .next t ∧ t.hostView = w) :
    LeadsFrom ρ n (fun s => s.hostView = v) (fun s => s.hostView = w) := by
  refine he.hostDue_leads (hp i (opClass_ne_ev hdue.host)) hdue (Q := fun s => s = w) hx fun h => ?_
  rw [h] at hpos
  exact hpos.elim (· rfl) (· rfl)

theorem IsExecution.gateWaitIdle_leads (he : IsExecution ρ τ) (hp : HostProgress ρ τ)
    (hdue : v.HostDue .gateWaitIdle) (ha : v.gateActive = false) :
    LeadsFrom ρ n (fun s => s.hostView = v) (fun s => s.hostView = v.fgNext) := by
  refine he.due_leads hp hdue (.inl (Nat.succ_ne_self _)) ?_
  rintro s rfl
  exact ⟨_, exec_gateWaitIdle hdue.inited ha, rfl⟩

theorem IsExecution.gateSetActive_leads (he : IsExecution ρ τ) (hp : HostProgress ρ τ)
    (hdue : v.HostDue .gateSetActive) :
    LeadsFrom ρ n (fun s => s.hostView = v)
      (fun s => s.hostView = v.setActive) := by
  refine he.due_leads hp hdue (.inl (Nat.succ_ne_self _)) ?_
  rintro s rfl
  exact ⟨_, exec_gateSetActive hdue.inited, rfl⟩

theorem IsExecution.bufScrub_leads (he : IsExecution ρ τ) (hp : HostProgress ρ τ) {buf : Addr}
    (hdue : v.HostDue (.bufScrub buf)) (ho : oddAddress buf = false) (ht : pastTop v.cfg buf = false) :
    LeadsFrom ρ n (fun s => s.hostView = v) (fun s => s.hostView = v.fgNext) := by
  refine he.due_leads hp hdue (.inl (Nat.succ_ne_self _)) ?_
  rintro s rfl
  exact exec_bufScrub hdue.inited ho ht

theorem IsExecution.dchArm_leads (he : IsExecution ρ τ) (hp : HostProgress ρ τ) {buf : Addr}
    (hdue : v.HostDue (.dchArm buf)) (hq : v.Quiet) (ho : oddAddress buf = false)
    (ht : pastTop v.cfg buf = false) :
    LeadsFrom ρ n (fun s => s.hostView = v)
      (fun s => s.hostView = v.arm buf) := by
  refine he.due_leads hp hdue (.inl (Nat.succ_ne_self _)) ?_
  rintro s rfl
  exact ⟨_, exec_dchArm hq.inited hq.dchOff hq.cchOff ho ht, rfl⟩

theorem IsExecution.xferGo_leads (he : IsExecution ρ τ) (hf : Fair ρ τ) (hq : v.Quiet)
    (hdue : v.HostDue .xferGo) (hdone : v.sigDone = false) (ha : v.cfg.startAligned = true) :
    LeadsFrom ρ n (fun s => s.hostView = v)
      (fun s => s.hostView = v.started) := fun _ _ h0 => by
  obtain ⟨m, hm, -, hv⟩ := he.xferGo_taken hf hq hdue hdone ha h0
  exact ⟨m + 1, by omega, hv⟩

theorem IsExecution.irqEnter_leads (he : IsExecution ρ τ) (hp : HostProgress ρ τ)
    (hdue : v.HostDue .irqEnter) (hdone : v.sigDone = true) (hinh : v.hostInh = false) :
    LeadsFrom ρ n (fun s => s.hostView = v) (fun s => s.hostView = v.takeInterrupt) := by
  refine he.due_leads hp hdue (.inr (Nat.succ_ne_self _)) ?_
  rintro s rfl
  exact ⟨_, exec_irqEnter hdue.inited hdone hinh, rfl⟩

theorem IsExecution.doneAck_leads (he : IsExecution ρ τ) (hp : HostProgress ρ τ)
    (hdue : v.HostDue .doneAck) :
    LeadsFrom ρ n (fun s => s.hostView = v)
      (fun s => s.hostView = v.acknowledged) := by
  refine he.due_leads hp hdue (.inr (Nat.succ_ne_self _)) ?_
  rintro s rfl
  exact ⟨_, exec_doneAck hdue.inited, rfl⟩

theorem IsExecution.portIdle_leads (he : IsExecution ρ τ) (hp : HostProgress ρ τ)
    (hdue : v.HostDue .portIdle) :
    LeadsFrom ρ n (fun s => s.hostView = v)
      (fun s => s.hostView = v.idled) := by
  refine he.due_leads hp hdue (.inr (Nat.succ_ne_self _)) ?_
  rintro s rfl
  exact ⟨_, exec_portIdle hdue.inited, rfl⟩

/-- TS.RECORD writes the moment's `NOW`, which the view does not hold. -/
theorem IsExecution.tsRecord_leads (he : IsExecution ρ τ) (hp : HostProgress ρ τ)
    (hdue : v.HostDue .tsRecord) :
    LeadsFrom ρ n (fun s => s.hostView = v)
      (fun s => ∃ cts, s.hostView = v.recorded cts) := by
  refine he.hostDue_leads (hp _ (by decide)) hdue
    (Q := fun s => ∃ cts, s = v.recorded cts) ?_ ?_
  · rintro s rfl
    exact ⟨_, exec_tsRecord hdue.inited, s.now, rfl⟩
  · rintro ⟨cts, h⟩
    exact Nat.succ_ne_self _ (congrArg State.ihPos h).symm

theorem IsExecution.gateClrActive_leads (he : IsExecution ρ τ) (hp : HostProgress ρ τ)
    (hdue : v.HostDue .gateClrActive) :
    LeadsFrom ρ n (fun s => s.hostView = v)
      (fun s => s.hostView = v.clearActive) := by
  refine he.due_leads hp hdue (.inr (Nat.succ_ne_self _)) ?_
  rintro s rfl
  exact ⟨_, exec_gateClrActive hdue.inited, rfl⟩

theorem IsExecution.irqExit_leads (he : IsExecution ρ τ) (hp : HostProgress ρ τ)
    (hdue : v.HostDue .irqExit) (hinh : v.hostInh = true) (hlast : v.ihPos + 1 = v.ihProg.length)
    (hpos : v.ihPos ≠ 0) :
    LeadsFrom ρ n (fun s => s.hostView = v) (fun s => s.hostView = v.returnFromInterrupt) := by
  refine he.due_leads hp hdue (.inr (Ne.symm hpos)) ?_
  rintro s rfl
  exact ⟨_, exec_irqExit hdue.inited hinh hlast, rfl⟩

/-! ## From the first operation of a show to XFER.GO -/

/-- The host's view at the beginning of a show (R127). -/
structure State.ShowDue (v : State) (buf : Addr) : Prop where
  quiet : v.Quiet
  noDone : v.sigDone = false
  noHandler : v.hostInh = false
  inactive : v.gateActive = false
  startAligned : v.cfg.startAligned = true
  words : ∀ k i, (Macro.expand (.showBuf buf))[k]? = some i →
    v.fgProg[v.fgPos + k]? = some (encode i)
  even : oddAddress buf = false
  fits : pastTop v.cfg buf = false

/-- The view of a show under way: the foreground `k` operations further, with the Active flag set. -/
def State.inShow (v : State) (k : Nat) : State := { v with fgPos := v.fgPos + k, gateActive := true }

/-- The host's view with the buffer of the show bound. -/
def State.showArmed (v : State) (buf : Addr) : State :=
  { v with
    fgPos := v.fgPos + 4, gateActive := true, dchSrc := buf, dchArmed := true, dchIdx := 0 }

/-- The host's view once XFER.GO has started the transfer of a show. -/
def State.showStarted (v : State) (buf : Addr) : State :=
  { v with
    fgPos := v.fgPos + 5, gateActive := true
    dchSrc := buf, dchArmed := true, dchIdx := 0, dchEn := true, cchEn := true }

theorem State.setActive_fgNext (v : State) : v.fgNext.setActive = v.inShow 2 := rfl
theorem State.fgNext_inShow (v : State) (k : Nat) : (v.inShow k).fgNext = v.inShow (k + 1) := rfl
theorem State.arm_inShow (v : State) (buf : Addr) : (v.inShow 3).arm buf = v.showArmed buf := rfl
theorem State.started_showArmed (v : State) (buf : Addr) :
    (v.showArmed buf).started = v.showStarted buf := rfl

/-- The foreground comes to have started the transfer of a show. -/
theorem IsExecution.show_starts (he : IsExecution ρ τ) (hf : Fair ρ τ) (hp : HostProgress ρ τ)
    {buf : Addr} (h : v.ShowDue buf) :
    LeadsFrom ρ n (fun s => s.hostView = v) (fun s => s.hostView = v.showStarted buf) := by
  obtain ⟨⟨hrun, hinit, hd, hc⟩, hdone, hinh, hact, hal, hwords, heven, hfits⟩ := h
  have hword {w : State} (k : Nat) {i : Instr} (hi : (Macro.expand (.showBuf buf))[k]? = some i)
      (hinhw : w.hostInh = false) (hprog : w.fgProg = v.fgProg) (hpos : w.fgPos = v.fgPos + k) :
      w.nextWord .foreground = some (encode i) :=
    (State.nextWord_foreground _ _).2 ⟨hinhw, by rw [hprog, hpos, hwords k i hi]⟩
  have hquiet : v.Quiet := ⟨hrun, hinit, hd, hc⟩
  have hnext : v.fgNext.Quiet := ⟨hrun, hinit, hd, hc⟩
  have hshow (k : Nat) : (v.inShow k).Quiet := ⟨hrun, hinit, hd, hc⟩
  have harmed : (v.showArmed buf).Quiet := ⟨hrun, hinit, hd, hc⟩
  have h0 := he.gateWaitIdle_leads (n := n) hp
    (hquiet.foregroundDue hinh hdone rfl (hword 0 rfl hinh rfl rfl)) hact
  have h1 := he.gateSetActive_leads (n := n) hp
    (hnext.foregroundDue hinh hdone rfl (hword 1 rfl hinh rfl rfl))
  have h2 := he.bufScrub_leads (n := n) hp
    ((hshow 2).foregroundDue hinh hdone rfl (hword 2 rfl hinh rfl rfl)) heven hfits
  have h3 := he.dchArm_leads (n := n) hp
    ((hshow 3).foregroundDue hinh hdone rfl (hword 3 rfl hinh rfl rfl)) (hshow 3) heven hfits
  have h4 := he.xferGo_leads (n := n) hf harmed
    (harmed.foregroundDue hinh hdone rfl (hword 4 rfl hinh rfl rfl)) hdone hal
  rw [State.setActive_fgNext] at h1
  rw [State.fgNext_inShow] at h2
  rw [State.arm_inShow] at h3
  rw [State.started_showArmed] at h4
  exact (((h0.trans h1).trans h2).trans h3).trans h4

/-! ## The transfer of a show -/

/-- The part of the host's view the hardware does not change during a transfer. -/
def State.flightView (s : State) : State :=
  { s.hostView with
    dchEn := false, dchIdx := 0, cchEn := false, cchIdx := 0, portOut := 0, sigDone := false
    trace := [] }

theorem State.nextWord_flightView (s : State) :
    s.flightView.nextWord .foreground = s.nextWord .foreground := rfl

/-- The trace of a transfer under way, after `before`: the ticks done, and the data write of the present one if
it is done (R39). -/
def State.Sent (before : List PortWrite) (s : State) : Prop :=
  ∃ ws : List Word, ws.length = s.cchIdx ∧
    s.trace = before ++ tickWrites s.cfg.clkmask 0 ws ++
      if s.dchEn && s.dchIdx == s.cchIdx then [] else [⟨.D, s.cchIdx, s.portOut⟩]

/-- A transfer under way whose trace began after `v`'s. -/
def State.InFlight (v s : State) : Prop :=
  s.cchEn = true ∧ s.flightView = v.flightView ∧ s.Sent v.trace

/-- The transfer is completed, its trace after `v`'s. -/
def State.Landed (v s : State) : Prop :=
  s.Completed ∧ s.flightView = v.flightView ∧
    ∃ ws : List Word, ws.length = s.cfg.n ∧ s.trace = v.trace ++ tickWrites s.cfg.clkmask 0 ws

theorem tickWrites_append (mask : Word) (k : Nat) (ws : List Word) (w : Word) :
    tickWrites mask k (ws ++ [w]) =
      tickWrites mask k ws ++ [⟨.D, k + ws.length, w⟩, ⟨.C, k + ws.length, w ||| mask⟩] := by
  induction ws generalizing k with
  | nil => rfl
  | cons x ws ih =>
    rw [List.cons_append, tickWrites, ih, tickWrites, List.length_cons, Nat.add_right_comm k 1,
      Nat.add_assoc k]
    rfl

theorem State.AtData.same {s : State} (h : s.AtData) : (s.dchEn && s.dchIdx == s.cchIdx) = true := by
  simp [h.dchOn, h.idx]

theorem State.Live.sent_serveData {s : State} (h : s.Live) (hd : s.dchEn = true) (hl : s.latA = true)
    {before : List PortWrite} (hs : s.Sent before) : s.serveData.Sent before := by
  have hdata := h.inStep.lockStep.atData hd hl
  have hclock := hdata.serveData hl
  obtain ⟨ws, hlen, htr⟩ := hs
  refine ⟨ws, hlen, ?_⟩
  rw [hclock.not_same h.aligned.sound.cchIdxLt, State.serveData_trace, htr, hdata.same]
  simp [hdata.idx]

theorem State.Live.sent_serveClock {s : State} (h : s.Live) (hc : s.cchEn = true) (hl : s.latB = true)
    {v : State} (hs : v.InFlight s) : v.InFlight s.serveClock ∨ v.Landed s.serveClock := by
  have hclock := h.inStep.lockStep.atClock hc hl
  have hlt := h.aligned.sound.cchIdxLt
  obtain ⟨-, hview, ws, hlen, htr⟩ := hs
  have htr' : s.serveClock.trace =
      v.trace ++ tickWrites s.cfg.clkmask 0 (ws ++ [s.portOut]) := by
    rw [hclock.not_same hlt] at htr
    simp [htr, tickWrites_append, hlen, setSide]
  have hlen' : (ws ++ [s.portOut]).length = s.cchIdx + 1 := by simp [hlen]
  have hnext := hclock.serveClock hl
  split_ifs at hnext with hlast
  · refine .inr ⟨⟨hnext.dchOff, hnext.cchOff, by simp [hlast]⟩, hview, _, hlen'.trans ?_, htr'⟩
    simpa [lastOfPass] using hlast
  · refine .inl ⟨hnext.cchOn, hview, _, hlen'.trans ?_, ?_⟩
    · exact (nextIdx_of_not_last hlt (by simpa using hlast)).symm
    · rw [htr', hnext.same, if_pos rfl, List.append_nil]
      rfl

/-- Every turn keeps a transfer of a show under way, or completes it, while the foreground waits. -/
theorem State.Live.inFlight_move {s t : State} {turn : Turn} (h : s.Live) (hs : v.InFlight s)
    (hwait : v.nextWord .foreground = some (encode .gateWaitLatch)) (hact : v.gateActive = true)
    (hm : Move s turn t) : v.InFlight t ∨ v.Landed t := by
  cases hm with
  | outside _ _ _ _ _ ht => exact .inl (by rw [ht]; exact hs)
  | act i _ hw hx =>
    have he := exec_effect hx
    obtain ⟨hc, hview, hsent⟩ := id hs
    have hstay (hts : t = s) : v.InFlight t ∨ v.Landed t := .inl (hts ▸ hs)
    rcases agent_cases i with hev | hfg | hih
    · cases he with
      | held => exact .inl hs
      | edgeA => exact .inl hs
      | edgeB => exact .inl hs
      | dchXfer _ hd hl => exact .inl ⟨hc, hview, h.sent_serveData hd hl hsent⟩
      | cchXfer _ _ hl => exact h.sent_serveClock hc hl hs
      | _ => cases hev
    · have hwait' : s.nextWord .foreground = some (encode .gateWaitLatch) := by
        rw [← hwait, ← s.nextWord_flightView, hview, v.nextWord_flightView]
      exact hstay (he.foreground_waits hfg hw hwait' ((congrArg State.gateActive hview).trans hact))
    · exact hstay (he.interrupt_rest hih hw (h.inStep.not_handling hc) (h.inStep.not_done hc))

/-- A transfer of a show on a buffer that stays declared completes while the foreground waits. -/
theorem IsExecution.transfer_lands (he : IsExecution ρ τ) (hf : Fair ρ τ) (hlive : (ρ n).Live)
    (h : v.InFlight (ρ n)) (hwait : v.nextWord .foreground = some (encode .gateWaitLatch))
    (hact : v.gateActive = true) (harm : v.dchArmed = true)
    (hown : ∀ m, n ≤ m → (ρ m).ownsBuffer v.dchSrc.toNat = true) :
    ∃ m, n ≤ m ∧ v.Landed (ρ m) := by
  refine leads_to (P := v.InFlight) h (fun m hm hP => ?_) fun hall => ?_
  · exact ((he.live hlive hm).withTurns []).inFlight_move hP hwait hact (he.move m)
  · have hsrc (m : Nat) (hm : n ≤ m) : (ρ m).dchSrc = v.dchSrc := by
      obtain ⟨-, hview, -⟩ := hall m hm
      exact (congrArg State.dchSrc hview :)
    obtain ⟨hc, hview, -⟩ := h
    obtain ⟨m, hm, -, hoff, -⟩ := he.transfer_completes hf hlive
      (fun m hm => by rw [hsrc m hm]; exact hown m hm) hc ((congrArg State.dchArmed hview).trans harm)
    obtain ⟨hon, -⟩ := hall m hm
    exact absurd (hoff.symm.trans hon) (by decide)

/-! ## The handler of a show -/

/-- The host's view with the completion pending, the foreground waiting, and the handler of R147 installed. -/
structure State.CompletionDue (v : State) : Prop where
  quiet : v.Quiet
  done : v.sigDone = true
  noHandler : v.hostInh = false
  active : v.gateActive = true
  wait : v.nextWord .foreground = some (encode .gateWaitLatch)
  handler : v.ihProg = assemble (Macro.expand .handler)
  handlerPos : v.ihPos = 0

/-- The host's view with `k` steps of the handler done, `GATE.CTS` recorded as `cts` (R147). -/
def State.inHandler (v : State) (k cts : Nat) : State :=
  { v with
    hostInh := true, ihPos := v.ihPos + k
    sigDone := if k < 2 then v.sigDone else false
    portOut := if k < 3 then v.portOut else v.cfg.idleLevel
    trace := if k < 3 then v.trace else v.trace ++ [⟨.I, 0, v.cfg.idleLevel⟩]
    gateCts := if k < 4 then v.gateCts else cts
    gateActive := if k < 5 then v.gateActive else false }

/-- The host's view after the return from the handler. -/
def State.handled (v : State) (cts : Nat) : State :=
  { v with
    hostInh := false, ihPos := 0, sigDone := false, portOut := v.cfg.idleLevel
    trace := v.trace ++ [⟨.I, 0, v.cfg.idleLevel⟩], gateCts := cts, gateActive := false }

theorem State.takeInterrupt_eq (v : State) : v.takeInterrupt = v.inHandler 1 0 := rfl
theorem State.acknowledged_inHandler (v : State) :
    (v.inHandler 1 0).acknowledged = v.inHandler 2 0 := rfl
theorem State.idled_inHandler (v : State) : (v.inHandler 2 0).idled = v.inHandler 3 0 := rfl
theorem State.recorded_inHandler (v : State) (cts : Nat) :
    (v.inHandler 3 0).recorded cts = v.inHandler 4 cts := rfl
theorem State.clearActive_inHandler (v : State) (cts : Nat) :
    (v.inHandler 4 cts).clearActive = v.inHandler 5 cts := rfl
theorem State.return_inHandler (v : State) (cts : Nat) :
    (v.inHandler 5 cts).returnFromInterrupt = v.handled cts := rfl

/-- A pending completion comes to be handled (R147). -/
theorem IsExecution.handler_runs (he : IsExecution ρ τ) (hp : HostProgress ρ τ) (h : v.CompletionDue) :
    LeadsFrom ρ n (fun s => s.hostView = v) (fun s => ∃ cts, s.hostView = v.handled cts) := by
  obtain ⟨⟨hrun, hinit, hd, hc⟩, hdone, hinh, hact, hwait, hprog, hpos⟩ := h
  have hword (k : Nat) {i : Instr} (hi : (Macro.expand .handler)[k]? = some i) :
      v.ihProg[v.ihPos + k]? = some (encode i) := by
    rw [hprog, hpos, Nat.zero_add, assemble, List.getElem?_map, hi, Option.map_some]
  have hq (k cts : Nat) : (v.inHandler k cts).Quiet := ⟨hrun, hinit, hd, hc⟩
  have hquiet : v.Quiet := ⟨hrun, hinit, hd, hc⟩
  have h1 := he.irqEnter_leads (n := n) hp (hquiet.entryDue hwait hact (hword 0 rfl)) hdone hinh
  have h2 := he.doneAck_leads (n := n) hp ((hq 1 0).handlerDue rfl rfl (hword 1 rfl))
  have h3 := he.portIdle_leads (n := n) hp ((hq 2 0).handlerDue rfl rfl (hword 2 rfl))
  have h4 := he.tsRecord_leads (n := n) hp ((hq 3 0).handlerDue rfl rfl (hword 3 rfl))
  have h5 (cts : Nat) :=
    he.gateClrActive_leads (n := n) hp ((hq 4 cts).handlerDue rfl rfl (hword 4 rfl))
  have h6 (cts : Nat) :=
    he.irqExit_leads (n := n) hp ((hq 5 cts).handlerDue rfl rfl (hword 5 rfl)) rfl
      (by show v.ihPos + 5 + 1 = v.ihProg.length; rw [hprog, hpos]; rfl)
      (by show v.ihPos + 5 ≠ 0; omega)
  rw [State.takeInterrupt_eq] at h1
  rw [State.acknowledged_inHandler] at h2
  rw [State.idled_inHandler] at h3
  simp only [State.recorded_inHandler] at h4
  simp only [State.clearActive_inHandler] at h5
  simp only [State.return_inHandler] at h6
  refine (((h1.trans h2).trans h3).trans h4).trans fun k hk hrec => ?_
  obtain ⟨cts, hrec⟩ := hrec
  obtain ⟨m, hm, hv⟩ := ((h5 cts).trans (h6 cts)) k hk hrec
  exact ⟨m, hm, cts, hv⟩

end Rules

end Sys2Proof.Machine
end

section
/-! PROOFS. The statement on fair executions, put together. -/

namespace Sys2Proof.Machine

variable {ρ : Nat → State} {τ : Nat → Turn} {n : Nat}

/-- Between transfers the host's view has both channels disabled. -/
theorem State.Live.quiet {s : State} (h : s.Live) (hc : s.cchEn = false) : s.hostView.Quiet :=
  ⟨h.running, h.inited, (h.inStep.lockStep.atRest hc).dchOff, hc⟩

/-- The operations of a show follow each other in the foreground's program. -/
theorem show_words {s : State} {buf : Addr} {before after : List OpWord}
    (hprog : s.fgProg = before ++ assemble (Macro.expand (.showBuf buf)) ++ after)
    (hpos : s.fgPos = before.length) (k : Nat) (i : Instr)
    (hi : (Macro.expand (.showBuf buf))[k]? = some i) : s.fgProg[s.fgPos + k]? = some (encode i) := by
  have hword : (assemble (Macro.expand (.showBuf buf)))[k]? = some (encode i) := by
    rw [assemble, List.getElem?_map, hi, Option.map_some]
  rw [hprog, hpos, List.append_assoc, List.getElem?_append_right (Nat.le_add_right _ _),
    Nat.add_sub_cancel_left, List.getElem?_append_left (List.getElem?_eq_some_iff.1 hword).1, hword]

/-- A transfer of a show begins with nothing sent. -/
theorem State.Live.showStarted_inFlight {s t : State} {buf : Addr} (h : s.Live) (hc : s.cchEn = false)
    (hv : t.hostView = s.hostView.showStarted buf) : (s.hostView.showStarted buf).InFlight t := by
  have hon : t.cchEn = true := (congrArg State.cchEn hv :)
  have hd : t.dchEn = true := (congrArg State.dchEn hv :)
  have hdi : t.dchIdx = 0 := (congrArg State.dchIdx hv :)
  have hci : t.cchIdx = 0 := (congrArg State.cchIdx hv).trans (h.aligned.sound.cchRest hc)
  have htr : t.trace = s.trace := (congrArg State.trace hv :)
  refine ⟨hon, ?_, [], hci.symm, ?_⟩
  · rw [← hv]; rfl
  · simp [htr, hd, hdi, hci, tickWrites, State.showStarted, State.hostView]

/-- What R127 says of the end of a show that began at `s`, but what the buffer holds. -/
structure State.ShowOver (s : State) (buf : Addr) (t : State) : Prop where
  fgPos : t.fgPos = s.fgPos + 6
  rest : t.AtRest
  noDone : t.sigDone = false
  noHandler : t.hostInh = false
  inactive : t.gateActive = false
  port : t.portOut = t.cfg.idleLevel
  elapsed : t.latchElapsed = true
  src : t.dchSrc = buf
  trace : ∃ ws : List Word, ws.length = t.cfg.n ∧ t.trace = s.trace ++ transferTrace t.cfg ws

/-- A show of an admitted buffer that stays declared returns, if the host makes progress (R133). -/
theorem IsExecution.show_returns (he : IsExecution ρ τ) (hf : Fair ρ τ) (hp : HostProgress ρ τ)
    (hlive : (ρ n).Live) {buf : Addr} (h : (ρ n).hostView.ShowDue buf)
    (hprog : (ρ n).ihProg = assemble (Macro.expand .handler)) (hpos : (ρ n).ihPos = 0)
    (hown : ∀ m, n ≤ m → (ρ m).ownsBuffer buf.toNat = true) :
    ∃ m, n ≤ m ∧ (ρ n).ShowOver buf (ρ m) := by
  have hwait : ((ρ n).hostView.showStarted buf).nextWord .foreground = some (encode .gateWaitLatch) :=
    (State.nextWord_foreground _ _).2 ⟨h.noHandler, h.words 5 _ rfl⟩
  obtain ⟨m1, hm1, hv1⟩ := he.show_starts (n := n) hf hp h n le_rfl rfl
  obtain ⟨m2, hm2, ⟨hd, hc, hdone⟩, hview, ws, hlen, htr⟩ :=
    he.transfer_lands hf (he.live hlive hm1) (hlive.showStarted_inFlight h.quiet.cchOff hv1) hwait rfl
      rfl fun m hm => hown m (by omega)
  have hlive2 := he.live hlive (show n ≤ m2 by omega)
  have hcfg2 : (ρ m2).cfg = (ρ n).cfg := (congrArg State.cfg hview :)
  have hfg2 : (ρ m2).fgPos = (ρ n).fgPos + 5 := (congrArg State.fgPos hview :)
  have hsrc2 : (ρ m2).dchSrc = buf := (congrArg State.dchSrc hview :)
  have hwait2 : (ρ m2).nextWord .foreground = some (encode .gateWaitLatch) := by
    rw [← State.nextWord_flightView, hview, State.nextWord_flightView, hwait]
  have hdue : (ρ m2).hostView.CompletionDue :=
    ⟨hlive2.quiet hc, hdone, (congrArg State.hostInh hview).trans h.noHandler,
      (congrArg State.gateActive hview :), hwait2, (congrArg State.ihProg hview).trans hprog,
      (congrArg State.ihPos hview).trans hpos⟩
  obtain ⟨m3, hm3, cts, hv3⟩ := he.handler_runs (n := n) hp hdue m2 (by omega) rfl
  have hquiet3 : ((ρ m2).hostView.handled cts).Quiet :=
    ⟨hdue.quiet.running, hdue.quiet.inited, hd, hc⟩
  have hdue3 : ((ρ m2).hostView.handled cts).HostDue .gateWaitLatch :=
    hquiet3.foregroundDue rfl rfl rfl ((State.nextWord_foreground _ _).2
      ⟨rfl, ((State.nextWord_foreground _ _).1 hwait2).2⟩)
  obtain ⟨m4, hm4, hv4, hl⟩ := he.gateWaitLatch_passes hf.time (hp _ (by decide)) hdue3 rfl hv3
  have hcfg4 : (ρ m4).cfg = (ρ m2).cfg := (congrArg State.cfg hv4 :)
  refine ⟨m4, by omega, ?_, ⟨?_, ?_⟩, ?_, ?_, ?_, ?_, hl, ?_, ws, ?_, ?_⟩
  · exact (congrArg State.fgPos hv4).trans (congrArg (· + 1) hfg2)
  · exact (congrArg State.dchEn hv4).trans hd
  · exact (congrArg State.cchEn hv4).trans hc
  · exact (congrArg State.sigDone hv4 :)
  · exact (congrArg State.hostInh hv4 :)
  · exact (congrArg State.gateActive hv4 :)
  · rw [hcfg4]
    exact (congrArg State.portOut hv4 :)
  · exact (congrArg State.dchSrc hv4).trans hsrc2
  · rw [hcfg4, hlen]
  · rw [hcfg4, transferTrace, ← List.append_assoc]
    exact (congrArg State.trace hv4).trans (congrArg (· ++ _) htr)

/-- Settles O33: the four claims follow from weak fairness of the event or operation that is due, by the views
of the state that only it can change. -/
theorem fairExecutionsMakeProgress : Obligations.FairExecutionsMakeProgress := by
  intro ρ τ n he hf hal hinit hrun
  have hlive : (ρ n).Live := ⟨hal, hinit, hrun⟩
  refine ⟨fun hc harm hown => ?_, fun hc hdone hinh hw => ?_, fun hc hdone hinh hact hw => ?_, ?_⟩
  · exact he.transfer_completes hf hlive hown hc harm
  · have hdue := (hlive.quiet hc).foregroundDue (i := .xferGo) hinh hdone rfl hw
    obtain ⟨m, hm, ht, -⟩ := he.xferGo_taken hf (hlive.quiet hc) hdue hdone hal.aligned rfl
    exact ⟨m, hm, ht⟩
  · have hdue := (hlive.quiet hc).foregroundDue (i := .gateWaitLatch) hinh hdone rfl hw
    exact he.gateWaitLatch_enabled hf.time hdue hact rfl
  · intro hp buf before after hc hdone hinh hact hprog hpos hfg hfgpos heven hfits hown
    have hfits' : pastTop (ρ n).cfg buf = false := by simpa [pastTop] using hfits
    have hdue : (ρ n).hostView.ShowDue buf :=
      ⟨hlive.quiet hc, hdone, hinh, hact, hal.aligned, show_words hfg hfgpos,
        by simpa [oddAddress] using heven, hfits'⟩
    obtain ⟨m, hm, hover⟩ := he.show_returns hf hp hlive hdue hprog hpos hown
    have hs := (he.live hlive hm).aligned.sound
    have helapsed := hover.elapsed
    rw [State.latchElapsed, decide_eq_true_eq] at helapsed
    refine ⟨m, hm, hfgpos ▸ hover.fgPos, hover.rest.dchOff, hover.rest.cchOff, hs.dchRest hover.rest.dchOff,
      hs.cchRest hover.rest.cchOff, hover.noDone, hover.noHandler, hover.inactive, hover.port, helapsed, ?_,
      hover.src, hover.trace⟩
    simp [State.phase, hover.inactive, helapsed]

end Sys2Proof.Machine
end

section
/-! PROOFS. The state family (10_state.md): what a step is, seen from the state before it; a sound state and an
aligned one are kept, and hold at power-on (R23, R24); the phase decides the host's waits (R22). -/

namespace Sys2Proof.Machine

/-! ## What a step does to the state before it -/

/-- A step performs one agent's operation, or changes nothing but `NOW`, the memory, what the model records of
it, and the turn it takes. -/
inductive Change (s t : State) : Prop where
  | outside (now : Nat) (mem : Memory) (owned : List Region) (raced : List (Nat × Word)) (ts : List Turn)
      (n : Nat)
      (ht : t = { s with now := now, mem := mem, owned := owned, raced := raced, turns := ts, draws := n })
  | act (i : Instr) (ts : List Turn) (n : Nat) (hp : s.Performs i)
      (hw : s.nextWord i.agent = some (encode i)) (he : Effect { s with turns := ts, draws := n } i t)

theorem step_change {s t : State} (h : step s = .next t) : Change s t := by
  obtain ⟨-, -, hturn⟩ := step_effect h
  have hafter := s.afterTurn_eta
  cases hturn.move with
  | outside now mem owned raced _ ht =>
    rw [hafter] at ht
    exact .outside now mem owned raced _ _ ht
  | act i hagent hw hx =>
    rw [State.nextWord_afterTurn] at hw
    have he := exec_effect hx
    rw [hafter] at he
    exact .act i _ _ ⟨i.agent, encode i, hagent, hw, decode_encode i⟩ hw he

/-- The operation a step performs is the one that is executed. -/
theorem State.Performs.exec_eq {i : Instr} {s t : State} (hp : s.Performs i) (h : step s = .next t) :
    exec i s.afterTurn = .next t := by
  obtain ⟨a, w, hturn, hw, hd⟩ := hp
  obtain ⟨hc, hprog, -⟩ := step_effect h
  simp only [step, runStep, hc, hprog, hturn, takeTurn, State.nextWord_afterTurn, hw, performWord, hd] at h
  split_ifs at h
  exact h

/-! ## A sound state and an aligned state (R24) -/

/-- Whether a state is sound does not depend on the turns to come. -/
theorem State.Sound.withInputs {s : State} (h : s.Sound) (ts : List Turn) (n : Nat) :
    State.Sound { s with turns := ts, draws := n } :=
  ⟨h.cfgValid, h.memWf, h.dchRest, h.cchRest, h.dchIdxLt, h.cchIdxLt, h.ctsLe, h.racedRest⟩

theorem State.Aligned.withInputs {s : State} (h : s.Aligned) (ts : List Turn) (n : Nat) :
    State.Aligned { s with turns := ts, draws := n } :=
  ⟨h.sound.withInputs ts n, h.aligned, h.lockStep, h.doneRest, h.handlerRest, h.ordered⟩

theorem State.Sound.step {s t : State} (hs : s.Sound) (h : step s = .next t) : t.Sound := by
  obtain ⟨-, -, hturn⟩ := step_effect h
  rw [State.afterTurn_eta] at hturn
  exact (hs.withInputs _ _).turn hturn

theorem State.Aligned.step {s t : State} (hs : s.Aligned) (h : step s = .next t) : t.Aligned := by
  obtain ⟨-, -, hturn⟩ := step_effect h
  rw [State.afterTurn_eta] at hturn
  exact (hs.withInputs _ _).turn hturn

/-- Settles O51: every operation keeps a state sound, and so does every other turn. -/
theorem everyStepKeepsTheStateSound : Obligations.EveryStepKeepsTheStateSound :=
  fun _ _ hs h => hs.step h

/-- Settles O52: in an aligned state only the next service of the tick writes the port. -/
theorem everyStepKeepsTheTransferAligned : Obligations.EveryStepKeepsTheTransferAligned :=
  fun _ _ hs h => hs.step h

/-! ## Power-on (R23) -/

theorem State.powerOn_sound {c : Config} (hc : configValid c = true) : (State.powerOn c).Sound :=
  have hn : 0 < c.n := configValid_n_pos hc
  ⟨hc, ⟨.nil, nofun⟩, fun _ => rfl, fun _ => rfl, hn, hn, le_rfl, fun _ => rfl⟩

theorem State.powerOn_aligned {c : Config} (hc : configValid c = true) (ha : c.startAligned = true) :
    (State.powerOn c).Aligned :=
  ⟨State.powerOn_sound hc, ha, nofun, nofun, nofun, nofun⟩

/-- Settles O53: before INIT an aligned state says nothing of the channels, and every cursor is 0. -/
theorem powerOnIsSoundAndAligned : Obligations.PowerOnIsSoundAndAligned := by
  have hreset : configValid Config.scenario = true := by decide
  exact ⟨fun c hc => ⟨State.powerOn_sound hc, State.powerOn_aligned hc, rfl, rfl, rfl⟩,
    State.powerOn_sound hreset, State.powerOn_aligned hreset rfl⟩

/-! ## The phase (R22, R125, R126) -/

theorem State.phase_eq_idle_iff (s : State) :
    s.phase = .idle ↔ s.gateActive = false ∧ s.latchElapsed = true := by
  unfold State.phase State.latchElapsed
  split_ifs with ha hl
  · simp [ha]
  · simp [hl]
  · simpa [ha] using hl

/-- GATE.BUSY is true in every phase but Idle. -/
theorem State.busyResult_eq_false_iff (s : State) : s.busyResult = false ↔ s.phase = .idle := by
  rw [State.phase_eq_idle_iff]
  simp [State.busyResult, State.latchElapsed]

theorem exec_gateWaitLatch_of_idle {s : State} (hi : s.hostInited = true) (h : s.phase = .idle) :
    exec .gateWaitLatch s = .next s.fgNext := by
  obtain ⟨ha, hl⟩ := s.phase_eq_idle_iff.1 h
  simp [exec, execGateWaitLatch, afterInit, hi, ha, hl]

theorem exec_gateWaitLatch_of_not_idle {s : State} (hi : s.hostInited = true) (h : s.phase ≠ .idle) :
    exec .gateWaitLatch s = .next s := by
  rw [Ne, State.phase_eq_idle_iff] at h
  have hguard : (!s.gateActive && s.latchElapsed) = false := by simpa using h
  simp [exec, execGateWaitLatch, afterInit, hi, hguard]

theorem exec_gateBusy {s : State} (hi : s.hostInited = true) :
    exec .gateBusy s = .next { s with busyResults := s.busyResults ++ [s.busyResult] }.fgNext := by
  simp [exec, execGateBusy, afterInit, hi]

theorem State.setActive_phase (s : State) : s.setActive.phase = .active := rfl

/-- The latch interval begins with the recorded moment. -/
theorem State.clearActive_recorded_phase {s : State} (h : 0 < s.cfg.tLatch) :
    (s.recorded s.now).clearActive.phase = .latching := by
  simp [State.phase, State.recorded, State.clearActive, h]

/-- Settles O38: the guard of the wait and the result of GATE.BUSY are the phase Idle and its negation. -/
theorem phaseFollowsTheGate : Obligations.PhaseFollowsTheGate := by
  intro s hi
  refine ⟨fun h => ⟨exec_gateWaitLatch_of_idle hi h, ?_⟩, fun h => ⟨exec_gateWaitLatch_of_not_idle hi h, ?_⟩,
    ⟨_, exec_gateSetActive hi, s.setActive_phase⟩,
    ⟨_, _, exec_tsRecord hi, exec_gateClrActive hi, State.clearActive_recorded_phase⟩⟩
  · rw [exec_gateBusy hi, s.busyResult_eq_false_iff.2 h]
    rfl
  · have hbusy : s.busyResult = true := by
      rwa [← Bool.not_eq_false, s.busyResult_eq_false_iff]
    rw [exec_gateBusy hi, hbusy]
    rfl

end Sys2Proof.Machine
end

section
/-! PROOFS. Who writes what (10_state.md R12 to R21): each lemma says of one operation which fields it writes and
to what, for any property `P` of the operation performed; the statements on steps follow. -/

namespace Sys2Proof.Machine

variable {i : Instr} {s t : State} {P : Instr → Prop}

/-! ## The programs (R12, R54) -/

theorem Effect.programs (h : Effect s i t) : t.fgProg = s.fgProg ∧ t.ihProg = s.ihProg := by
  cases h with
  | bufScrub => simp
  | _ => exact ⟨rfl, rfl⟩

theorem Change.parameters (h : Change s t) : t.cfg = s.cfg ∧ t.fgProg = s.fgProg ∧ t.ihProg = s.ihProg := by
  cases h with
  | outside now mem owned raced ts n ht =>
    subst ht
    exact ⟨rfl, rfl, rfl⟩
  | act i ts n hp hw he => exact ⟨he.cfg, he.programs⟩

/-- Settles O44: no operation writes a parameter, and no turn of time or of the caller does. -/
theorem configurationNeverChanges : Obligations.ConfigurationNeverChanges :=
  fun _ _ h => (step_change h).parameters

/-! ## The latches and the generator (R13, R14) -/

theorem Effect.latch_writers (h : Effect s i t) (hP : P i) :
    (t.latA ≠ s.latA → (t.latA = true ∧ P .edgeA) ∨
      (t.latA = false ∧ (P .dchXfer ∨ P .latchClr ∨ P .xferGo ∨ P .init))) ∧
    (t.latB ≠ s.latB → (t.latB = true ∧ P .edgeB) ∨
      (t.latB = false ∧ (P .cchXfer ∨ P .latchClr ∨ P .xferGo ∨ P .init))) := by
  cases h with
  | init => exact ⟨fun _ => by simp [hP], fun _ => by simp [hP]⟩
  | latchClr => exact ⟨fun _ => by simp [hP], fun _ => by simp [hP]⟩
  | xferGo => exact ⟨fun _ => by simp [hP], fun _ => by simp [hP]⟩
  | edgeA => exact ⟨fun _ => .inl ⟨rfl, hP⟩, fun h => absurd rfl h⟩
  | edgeB => exact ⟨fun h => absurd rfl h, fun _ => .inl ⟨rfl, hP⟩⟩
  | dchXfer => exact ⟨fun _ => .inr ⟨rfl, .inl hP⟩, fun h => absurd rfl h⟩
  | cchXfer => exact ⟨fun h => absurd rfl h, fun _ => .inr ⟨rfl, .inl hP⟩⟩
  | bufScrub => simp
  | _ => exact ⟨fun h => absurd rfl h, fun h => absurd rfl h⟩

theorem Effect.generator_writers (h : Effect s i t) (hP : P i) :
    (t.ecgRun ≠ s.ecgRun → t.ecgRun = true ∧ P .init) ∧
    (t.ecgNext ≠ s.ecgNext → (t.ecgNext = .B ∧ P .edgeA) ∨ (t.ecgNext = .A ∧ (P .edgeB ∨ P .init))) := by
  cases h with
  | init => exact ⟨fun _ => ⟨rfl, hP⟩, fun _ => .inr ⟨rfl, .inr hP⟩⟩
  | edgeA => exact ⟨fun h => absurd rfl h, fun _ => .inl ⟨rfl, hP⟩⟩
  | edgeB => exact ⟨fun h => absurd rfl h, fun _ => .inr ⟨rfl, .inl hP⟩⟩
  | bufScrub => simp
  | _ => exact ⟨fun h => absurd rfl h, fun h => absurd rfl h⟩

/-- Settles O46: the writers of the latches and of the generator's state, operation by operation. -/
theorem latchAndGeneratorWriters : Obligations.LatchAndGeneratorWriters := by
  intro s t h
  cases step_change h with
  | outside now mem owned raced ts n ht => simp [ht]
  | act i ts n hp hw he =>
    obtain ⟨hA, hB⟩ := he.latch_writers hp
    exact ⟨hA, hB, he.generator_writers hp⟩

/-! ## The channels (R15, R16, R85) -/

theorem lastOfPass_iff (n k : Nat) : lastOfPass n k = true ↔ k + 1 = n := beq_iff_eq

theorem Effect.dataChannel_writers (h : Effect s i t) (hP : P i) :
    (t.dchEn ≠ s.dchEn → (t.dchEn = true ∧ (P .dchStart ∨ P .xferGo)) ∨
      (t.dchEn = false ∧ ((P .dchXfer ∧ s.dchIdx + 1 = s.cfg.n) ∨ P .init))) ∧
    (t.dchSrc ≠ s.dchSrc → P (.dchArm t.dchSrc)) ∧
    (t.dchIdx ≠ s.dchIdx → (P .dchXfer ∧ t.dchIdx = (s.dchIdx + 1) % s.cfg.n) ∨
      (t.dchIdx = 0 ∧ ((∃ src, P (.dchArm src)) ∨ P .init))) := by
  cases h with
  | init =>
    exact ⟨fun _ => .inr ⟨rfl, .inr hP⟩, fun h => absurd rfl h, fun _ => .inr ⟨rfl, .inr hP⟩⟩
  | dchArm src => exact ⟨fun h => absurd rfl h, fun _ => hP, fun _ => .inr ⟨rfl, .inl ⟨src, hP⟩⟩⟩
  | dchStart => exact ⟨fun _ => .inl ⟨rfl, .inl hP⟩, fun h => absurd rfl h, fun h => absurd rfl h⟩
  | xferGo => exact ⟨fun _ => .inl ⟨rfl, .inr hP⟩, fun h => absurd rfl h, fun h => absurd rfl h⟩
  | xferDisable _ hd => exact ⟨fun h => absurd hd.symm h, fun h => absurd rfl h, fun h => absurd rfl h⟩
  | dchXfer _ hd =>
    refine ⟨fun h => ?_, fun h => absurd rfl h, fun _ => .inl ⟨hP, rfl⟩⟩
    have hlast : lastOfPass s.cfg.n s.dchIdx = true := by simpa [hd] using h
    exact .inr ⟨by simp [hlast], .inl ⟨hP, (lastOfPass_iff _ _).1 hlast⟩⟩
  | bufScrub => simp
  | _ => exact ⟨fun h => absurd rfl h, fun h => absurd rfl h, fun h => absurd rfl h⟩

theorem Effect.clockChannel_writers (h : Effect s i t) (hP : P i) :
    (t.cchEn ≠ s.cchEn → (t.cchEn = true ∧ (P .cchStart ∨ P .xferGo)) ∨
      (t.cchEn = false ∧ ((P .cchXfer ∧ s.cchIdx + 1 = s.cfg.n) ∨ P .init))) ∧
    (t.cchIdx ≠ s.cchIdx → (P .cchXfer ∧ t.cchIdx = (s.cchIdx + 1) % s.cfg.n) ∨
      (t.cchIdx = 0 ∧ P .init)) := by
  cases h with
  | init => exact ⟨fun _ => .inr ⟨rfl, .inr hP⟩, fun _ => .inr ⟨rfl, hP⟩⟩
  | cchStart => exact ⟨fun _ => .inl ⟨rfl, .inl hP⟩, fun h => absurd rfl h⟩
  | xferGo => exact ⟨fun _ => .inl ⟨rfl, .inr hP⟩, fun h => absurd rfl h⟩
  | xferDisable _ _ hc => exact ⟨fun h => absurd hc.symm h, fun h => absurd rfl h⟩
  | cchXfer _ hc =>
    refine ⟨fun h => ?_, fun _ => .inl ⟨hP, rfl⟩⟩
    have hlast : lastOfPass s.cfg.n s.cchIdx = true := by simpa [hc] using h
    exact .inr ⟨by simp [hlast], .inl ⟨hP, (lastOfPass_iff _ _).1 hlast⟩⟩
  | bufScrub => simp
  | _ => exact ⟨fun h => absurd rfl h, fun h => absurd rfl h⟩

/-- Settles O47: the writers of each channel's state, operation by operation. -/
theorem channelStateWriters : Obligations.ChannelStateWriters := by
  intro s t h
  cases step_change h with
  | outside now mem owned raced ts n ht => simp [ht]
  | act i ts n hp hw he =>
    obtain ⟨hen, hsrc, hidx⟩ := he.dataChannel_writers hp
    exact ⟨hen, hsrc, hidx, he.clockChannel_writers hp⟩

/-! ## The port (R17, R20, R100) -/

theorem Effect.port_writers (h : Effect s i t) (hP : P i) :
    (t.portOut = s.portOut ∧ t.trace = s.trace) ∨
    ((P .dchXfer ∨ P .cchXfer ∨ P .portIdle) ∧ ∃ e, t.trace = s.trace ++ [e] ∧ e.value = t.portOut) ∨
    (P .init ∧ t.trace = [⟨.I, 0, t.portOut⟩]) := by
  cases h with
  | init => exact .inr (.inr ⟨hP, rfl⟩)
  | dchXfer => exact .inr (.inl ⟨.inl hP, _, rfl, rfl⟩)
  | cchXfer => exact .inr (.inl ⟨.inr (.inl hP), _, rfl, rfl⟩)
  | portIdle => exact .inr (.inl ⟨.inr (.inr hP), _, rfl, rfl⟩)
  | bufScrub => simp
  | _ => exact .inl ⟨rfl, rfl⟩

/-- Settles O48: the operations that write the port enter its level in the trace. -/
theorem portWritersAreTraced : Obligations.PortWritersAreTraced := by
  intro s t h
  cases step_change h with
  | outside now mem owned raced ts n ht => simp [ht]
  | act i ts n hp hw he => exact he.port_writers hp

/-! ## The completion signal (R18, R111, R113) -/

theorem Effect.done_writers (h : Effect s i t) (hP : P i) :
    (s.sigDone = false → t.sigDone = true →
      P .cchXfer ∧ s.cchIdx + 1 = s.cfg.n ∧ s.cchEn = true ∧ t.cchEn = false) ∧
    (s.sigDone = true → t.sigDone = false → P .doneAck ∨ P .init) := by
  have same (hsame : t.sigDone = s.sigDone) (Q R : Prop) :
      (s.sigDone = false → t.sigDone = true → Q) ∧ (s.sigDone = true → t.sigDone = false → R) := by
    simp_all
  cases h with
  | init => exact ⟨nofun, fun _ _ => .inr hP⟩
  | doneAck => exact ⟨nofun, fun _ _ => .inl hP⟩
  | cchXfer _ hc =>
    refine ⟨fun hs ht => ?_, fun hs ht => ?_⟩
    · have hlast : lastOfPass s.cfg.n s.cchIdx = true := by simpa [hs] using ht
      exact ⟨hP, (lastOfPass_iff _ _).1 hlast, hc, by simp [hlast]⟩
    · simp [hs] at ht
  | bufScrub => exact same (by simp) _ _
  | _ => exact same rfl _ _

theorem exec_cchXfer (hi : s.hostInited = true) (hc : s.cchEn = true) (hl : s.latB = true) :
    exec .cchXfer s = .next s.serveClock := by
  simp [exec, execCchXfer, State.cchTriggered, hi, hc, hl]

/-- The `N`-th service of the ClockChannel raises the signal (R111). -/
theorem step_lastService (h : step s = .next t) (hp : s.Performs .cchXfer) (hi : s.hostInited = true)
    (hc : s.cchEn = true) (hl : s.latB = true) (hlast : s.cchIdx + 1 = s.cfg.n) : t.sigDone = true := by
  have hx := hp.exec_eq h
  rw [State.afterTurn_eta] at hx
  have hserve := hx.symm.trans (exec_cchXfer hi hc hl)
  rw [Host.Outcome.next.inj hserve, State.serveClock_sigDone, (lastOfPass_iff _ _).2 hlast, Bool.or_true]

/-- Settles O49: the writers of the signal, and the last service of the pass as it is executed. -/
theorem completionSignalIsALevel : Obligations.CompletionSignalIsALevel := by
  intro s t h
  cases step_change h with
  | outside now mem owned raced ts n ht =>
    have hsame : t.sigDone = s.sigDone := by rw [ht]
    exact ⟨fun hs ht => by simp [hsame, hs] at ht, fun hs ht => by simp [hsame, hs] at ht,
      step_lastService h⟩
  | act i ts n hp hw he =>
    obtain ⟨hrise, hfall⟩ := he.done_writers hp
    exact ⟨hrise, hfall, step_lastService h⟩

/-! ## The host's state (R21) -/

theorem Effect.gate_writers (h : Effect s i t) (hP : P i) :
    (t.gateActive ≠ s.gateActive → (t.gateActive = true ∧ P .gateSetActive) ∨
      (t.gateActive = false ∧ (P .gateClrActive ∨ P .init))) ∧
    (t.gateCts ≠ s.gateCts → (P .tsRecord ∧ t.gateCts = s.now) ∨ P .init) := by
  cases h with
  | init => exact ⟨fun _ => .inr ⟨rfl, .inr hP⟩, fun _ => .inr hP⟩
  | gateSetActive => exact ⟨fun _ => .inl ⟨rfl, hP⟩, fun h => absurd rfl h⟩
  | gateClrActive => exact ⟨fun _ => .inr ⟨rfl, .inl hP⟩, fun h => absurd rfl h⟩
  | tsRecord => exact ⟨fun h => absurd rfl h, fun _ => .inl ⟨hP, rfl⟩⟩
  | bufScrub => simp
  | _ => exact ⟨fun h => absurd rfl h, fun h => absurd rfl h⟩

theorem Effect.host_writers (h : Effect s i t) (hP : P i) :
    (t.hostInited ≠ s.hostInited → t.hostInited = true ∧ P .init) ∧
    (t.hostInh ≠ s.hostInh → (t.hostInh = true ∧ P .irqEnter) ∨
      (t.hostInh = false ∧ (P .irqExit ∨ P .init))) := by
  cases h with
  | init => exact ⟨fun _ => ⟨rfl, hP⟩, fun _ => .inr ⟨rfl, .inr hP⟩⟩
  | irqEnter => exact ⟨fun h => absurd rfl h, fun _ => .inl ⟨rfl, hP⟩⟩
  | irqExit => exact ⟨fun h => absurd rfl h, fun _ => .inr ⟨rfl, .inl hP⟩⟩
  | bufScrub => simp
  | _ => exact ⟨fun h => absurd rfl h, fun h => absurd rfl h⟩

/-- Settles O50: the writers of the host's state, operation by operation. -/
theorem hostStateWriters : Obligations.HostStateWriters := by
  intro s t h
  cases step_change h with
  | outside now mem owned raced ts n ht => simp [ht]
  | act i ts n hp hw he =>
    obtain ⟨hinited, hinh⟩ := he.host_writers hp
    obtain ⟨hactive, hcts⟩ := he.gate_writers hp
    exact ⟨hinited, hactive, hcts, hinh⟩

end Sys2Proof.Machine
end

section
/-! PROOFS. A host that keeps to INIT, `show` and `busy` (10_state.md R24 (e), 45_transfer_gate.md R127,
60_exceptions.md R147): the order of the operations in its program, the stages of a `show`, and the protocol kept
by every step from power-on. -/

namespace Sys2Proof.Machine

variable {s t : State} {i : Instr}

/-! ## The order of the operations in a program of host calls (R61, R62) -/

/-- What may stand after an operation in a program of host calls: between GATE.SETACTIVE and XFER.GO an operation
that is due before the start; after XFER.GO the wait; after the last operation of a call none that is due before
a start. -/
def Follows : Instr → Option Instr → Prop
  | .gateSetActive, next | .bufScrub _, next | .dchArm _, next => ∃ j, next = some j ∧ startDue j = true
  | .xferGo, next => next = some .gateWaitLatch
  | .init, next | .gateWaitIdle, next | .gateWaitLatch, next | .gateBusy, next =>
    ¬ ∃ j, next = some j ∧ startDue j = true
  | .latchClr, _ | .dchStart, _ | .cchStart, _ | .xferDisable, _ | .doneAck, _ | .portIdle, _ | .edgeA, _
  | .edgeB, _ | .dchXfer, _ | .cchXfer, _ | .tsRecord, _ | .gateClrActive, _ | .irqEnter, _ | .irqExit, _ => False

/-- Each operation of the list is followed by one that may stand after it. -/
def InCallOrder : List Instr → Prop
  | [] => True
  | i :: is => Follows i is.head? ∧ InCallOrder is

theorem InCallOrder.follows {is : List Instr} (h : InCallOrder is) {p : Nat} (hi : is[p]? = some i) :
    Follows i is[p + 1]? := by
  induction is generalizing p with
  | nil => simp at hi
  | cons j is ih =>
    obtain ⟨hj, his⟩ := h
    cases p with
    | zero =>
      obtain rfl : j = i := by simpa using hi
      simpa [List.head?_eq_getElem?] using hj
    | succ p => simpa using ih his (by simpa using hi)

/-- A call begins with no operation that is due before a start. -/
theorem hostCalls_head (calls : List HostCall) :
    ¬ ∃ j, (hostCalls calls).head? = some j ∧ startDue j = true := by
  rintro ⟨j, hj, hdue⟩
  cases calls with
  | nil => simp [hostCalls] at hj
  | cons call calls =>
    cases call <;> obtain rfl := Option.some.inj hj <;> simp [startDue] at hdue

theorem hostCalls_inCallOrder (calls : List HostCall) : InCallOrder (hostCalls calls) := by
  induction calls with
  | nil => trivial
  | cons call calls ih =>
    have hhead := hostCalls_head calls
    cases call with
    | init => exact ⟨hhead, ih⟩
    | showBuf buf =>
      exact ⟨fun ⟨_, hj, hdue⟩ => by obtain rfl := Option.some.inj hj; simp [startDue] at hdue,
        ⟨_, rfl, rfl⟩, ⟨_, rfl, rfl⟩, ⟨_, rfl, rfl⟩, rfl, hhead, ih⟩
    | busy => exact ⟨hhead, ih⟩

theorem State.foregroundAt_eq_some_iff (s : State) (i : Instr) :
    s.foregroundAt = some i ↔ s.fgProg[s.fgPos]? = some (encode i) := by
  rw [State.foregroundAt, Option.bind_eq_some_iff]
  constructor
  · rintro ⟨w, hw, hd⟩
    rw [hw, encode_eq_of_decode hd]
  · exact fun hw => ⟨_, hw, decode_encode i⟩

theorem assemble_getElem? (is : List Instr) (p : Nat) (i : Instr) :
    (assemble is)[p]? = some (encode i) ↔ is[p]? = some i := by
  rw [assemble, List.getElem?_map, Option.map_eq_some_iff]
  constructor
  · rintro ⟨j, hj, he⟩
    rw [hj, encode_injective he]
  · exact fun h => ⟨i, h, rfl⟩

/-- What the foreground of a host that keeps to the calls finds after the operation it stands at. -/
theorem State.foregroundAt_fgNext {calls : List HostCall} (hprog : s.fgProg = assemble (hostCalls calls))
    (hi : s.foregroundAt = some i) : Follows i s.fgNext.foregroundAt := by
  rw [State.foregroundAt_eq_some_iff, hprog, assemble_getElem?] at hi
  have hnext : s.fgNext.foregroundAt = (hostCalls calls)[s.fgPos + 1]? := by
    ext j
    rw [State.foregroundAt_eq_some_iff, State.fgNext_fgProg, State.fgNext_fgPos, hprog, assemble_getElem?]
  rw [hnext]
  exact (hostCalls_inCallOrder calls).follows hi

/-! ## The stages of a show (R127, R147) -/

/-- A stage speaks of what the host sees. -/
theorem State.AtStage.of_hostView {g : HostStage} (h : s.AtStage g) (hv : t.hostView = s.hostView) :
    t.AtStage g := by
  have hview (u : State) : u.hostView.AtStage g ↔ u.AtStage g := by cases g <;> rfl
  rwa [← hview, hv, hview]

theorem State.AtStage.quiet_active (h : s.AtStage .quiet) (hi : s.foregroundAt = some i)
    (hdue : startDue i = true) : s.gateActive = true := by
  obtain ⟨-, -, -, -, hact⟩ := h
  exact hact.2 ⟨i, hi, hdue⟩

theorem State.AtStage.quiet_inactive (h : s.AtStage .quiet) (hi : s.foregroundAt = some i)
    (hdue : startDue i = false) : ¬ s.gateActive = true := by
  obtain ⟨-, -, -, -, hact⟩ := h
  rw [hact]
  rintro ⟨j, hj, hj'⟩
  obtain rfl : i = j := by simpa [hi] using hj
  simp [hdue] at hj'

/-- Between transfers the foreground goes on inside a call, or its XFER.GO begins the transfer. -/
theorem State.AtStage.quiet_foreground (h : s.AtStage .quiet) (hinit : s.hostInited = true)
    (hi : s.foregroundAt = some i) (hnext : Follows i s.fgNext.foregroundAt) (he : Effect s i t) :
    ∃ g, t.AtStage g := by
  obtain ⟨hc, hdone, hinh, hpos, -⟩ := id h
  cases he with
  | held => exact ⟨.quiet, h⟩
  | init hnot => simp [hinit] at hnot
  | gateSetActive => exact ⟨.quiet, hc, hdone, hinh, hpos, iff_of_true rfl hnext⟩
  | dchArm => exact ⟨.quiet, hc, hdone, hinh, hpos, iff_of_true (h.quiet_active hi rfl) hnext⟩
  | bufSkip => exact ⟨.quiet, hc, hdone, hinh, hpos, iff_of_true (h.quiet_active hi rfl) hnext⟩
  | bufScrub =>
    rw [State.scrubWords_eta]
    exact ⟨.quiet, hc, hdone, hinh, hpos, iff_of_true (h.quiet_active hi rfl) hnext⟩
  | xferGo => exact ⟨.flight, rfl, hdone, hinh, hpos, h.quiet_active hi rfl, hnext⟩
  | gateWaitIdle => exact ⟨.quiet, hc, hdone, hinh, hpos, iff_of_false (h.quiet_inactive hi rfl) hnext⟩
  | gateWaitLatch => exact ⟨.quiet, hc, hdone, hinh, hpos, iff_of_false (h.quiet_inactive hi rfl) hnext⟩
  | gateBusy => exact ⟨.quiet, hc, hdone, hinh, hpos, iff_of_false (h.quiet_inactive hi rfl) hnext⟩
  | _ => exact hnext.elim

/-- In a transfer the events go on until the last service of the ClockChannel raises the completion. -/
theorem State.AtStage.flight_event (h : s.AtStage .flight) (hev : i.opClass = .ev) (he : Effect s i t) :
    ∃ g, t.AtStage g := by
  cases he with
  | held => exact ⟨.flight, h⟩
  | edgeA => exact ⟨.flight, h⟩
  | edgeB => exact ⟨.flight, h⟩
  | dchXfer => exact ⟨.flight, h⟩
  | cchXfer =>
    obtain ⟨-, hdone, hrest⟩ := h
    cases hlast : lastOfPass s.cfg.n s.cchIdx with
    | true => exact ⟨.pending, by simp [hlast], by simp [hlast], hrest⟩
    | false => exact ⟨.flight, by simp [hlast], by simp [hlast, hdone], hrest⟩
  | _ => cases hev

/-- A foreground that waits for the latch interval stays while the Active flag is set. -/
theorem Effect.waits_of_active (he : Effect s i t) (ha : i.agent = .foreground)
    (hw : s.nextWord i.agent = some (encode i)) (hinh : s.hostInh = false) (hact : s.gateActive = true)
    (hfg : s.foregroundAt = some .gateWaitLatch) : t = s :=
  he.foreground_waits ha hw
    ((State.nextWord_foreground _ _).2 ⟨hinh, (s.foregroundAt_eq_some_iff _).1 hfg⟩) hact

/-- A pending completion lets the interrupt context enter the handler, and nothing else. -/
theorem State.AtStage.pending_interrupt (h : s.AtStage .pending) (ha : i.agent = .interrupt)
    (hw : s.nextWord i.agent = some (encode i)) (he : Effect s i t) : ∃ g, t.AtStage g := by
  obtain ⟨hc, hdone, hinh, hpos, hact, hfg⟩ := id h
  rw [ha] at hw
  obtain ⟨-, hrun | henter⟩ := (State.nextWord_interrupt _ _).1 hw
  · simp [hinh] at hrun
  · obtain rfl := eq_irqEnter ha henter
    cases he with
    | held => exact ⟨.pending, h⟩
    | irqEnter =>
      exact ⟨.handler 1, hc, rfl, by simp [hpos], le_rfl, by decide, hdone, hact, hfg⟩

/-- The handler does its steps one by one; its return leads back to the foreground's wait. -/
theorem State.AtStage.handler_interrupt {k : Nat} (h : s.AtStage (.handler k))
    (hprog : s.ihProg = assemble (Macro.expand .handler)) (ha : i.agent = .interrupt)
    (hw : s.nextWord i.agent = some (encode i)) (he : Effect s i t) : ∃ g, t.AtStage g := by
  obtain ⟨hc, hinh, hpos, hk1, hk5, hdone, hact, hfg⟩ := id h
  rw [ha] at hw
  obtain ⟨hword, -⟩ := (State.nextWord_interrupt _ _).1 hw
  rw [hprog, hpos, assemble_getElem?] at hword
  have hpos' : s.ihPos + 1 = k + 1 := by rw [hpos]
  interval_cases k
  · obtain rfl := Option.some.inj hword
    cases he with
    | held => exact ⟨.handler 1, h⟩
    | doneAck => exact ⟨.handler 2, hc, hinh, hpos', by decide, by decide, rfl, hact, hfg⟩
  · obtain rfl := Option.some.inj hword
    cases he with
    | held => exact ⟨.handler 2, h⟩
    | portIdle => exact ⟨.handler 3, hc, hinh, hpos', by decide, by decide, hdone, hact, hfg⟩
  · obtain rfl := Option.some.inj hword
    cases he with
    | held => exact ⟨.handler 3, h⟩
    | tsRecord => exact ⟨.handler 4, hc, hinh, hpos', by decide, by decide, hdone, hact, hfg⟩
  · obtain rfl := Option.some.inj hword
    cases he with
    | held => exact ⟨.handler 4, h⟩
    | gateClrActive => exact ⟨.handler 5, hc, hinh, hpos', by decide, by decide, hdone, rfl, hfg⟩
  · obtain rfl := Option.some.inj hword
    cases he with
    | held => exact ⟨.handler 5, h⟩
    | irqExit =>
      refine ⟨.quiet, hc, hdone, rfl, rfl, iff_of_false (by simp [hact]) ?_⟩
      rintro ⟨j, hj, hdue⟩
      obtain rfl : .gateWaitLatch = j := Option.some.inj (hfg.symm.trans hj)
      simp [startDue] at hdue

/-! ## The protocol is kept (R24 (e)) -/

theorem State.HostProtocol.atRest (h : s.HostProtocol) (hinit : s.hostInited = true)
    (hc : s.cchEn = false) : s.AtRest := (h.aligned.lockStep hinit).atRest hc

/-- The hardware changes the stage only in a transfer. -/
theorem State.HostProtocol.event_of_rest (h : s.HostProtocol) (hinit : s.hostInited = true)
    {g : HostStage} (hg : s.AtStage g) (hc : s.cchEn = false) (hev : i.opClass = .ev) (he : Effect s i t) :
    ∃ g, t.AtStage g := by
  have hrest := h.atRest hinit hc
  exact ⟨g, hg.of_hostView (he.hostView_of_event hev hrest.dchOff hrest.cchOff)⟩

/-- After INIT every operation an agent issues leads from a stage to a stage. -/
theorem State.HostProtocol.stage_effect (h : s.HostProtocol) (hinit : s.hostInited = true)
    (hw : s.nextWord i.agent = some (encode i)) (he : Effect s i t) : ∃ g, t.AtStage g := by
  obtain ⟨g, hg⟩ := h.stage hinit
  cases g with
  | quiet =>
    obtain ⟨hc, hdone, hinh, -, -⟩ := id hg
    rcases agent_cases i with hev | hfg | hih
    · exact h.event_of_rest hinit hg hc hev he
    · obtain ⟨calls, hprog⟩ := h.program
      rw [hfg] at hw
      have hi := (s.foregroundAt_eq_some_iff i).2 ((State.nextWord_foreground _ _).1 hw).2
      exact hg.quiet_foreground hinit hi (State.foregroundAt_fgNext hprog hi) he
    · exact ⟨.quiet, he.interrupt_rest hih hw hinh hdone ▸ hg⟩
  | flight =>
    obtain ⟨-, hdone, hinh, -, hact, hwait⟩ := id hg
    rcases agent_cases i with hev | hfg | hih
    · exact hg.flight_event hev he
    · exact ⟨.flight, he.waits_of_active hfg hw hinh hact hwait ▸ hg⟩
    · exact ⟨.flight, he.interrupt_rest hih hw hinh hdone ▸ hg⟩
  | pending =>
    obtain ⟨hc, -, hinh, -, hact, hwait⟩ := id hg
    rcases agent_cases i with hev | hfg | hih
    · exact h.event_of_rest hinit hg hc hev he
    · exact ⟨.pending, he.waits_of_active hfg hw hinh hact hwait ▸ hg⟩
    · exact hg.pending_interrupt hih hw he
  | handler k =>
    obtain ⟨hc, hinh, -⟩ := id hg
    rcases agent_cases i with hev | hfg | hih
    · exact h.event_of_rest hinit hg hc hev he
    · rw [hfg] at hw
      simp [((State.nextWord_foreground _ _).1 hw).1] at hinh
    · exact hg.handler_interrupt h.handler hih hw he

/-- Before INIT only INIT makes the host initialised. -/
theorem Effect.eq_init (h : Effect s i t) (hs : s.hostInited = false) (ht : t.hostInited = true) :
    i = .init ∧ t = s.initialised.fgNext := by
  cases h with
  | init => exact ⟨rfl, rfl⟩
  | _ => simp_all

/-- INIT leads to the first stage. -/
theorem State.HostProtocol.stage_init (h : s.HostProtocol) (hnot : s.hostInited = false)
    (hw : s.nextWord .foreground = some (encode .init)) : s.initialised.fgNext.AtStage .quiet := by
  obtain ⟨calls, hprog⟩ := h.program
  obtain ⟨-, hpos⟩ := h.beforeInit hnot
  have hi := (s.foregroundAt_eq_some_iff .init).2 ((State.nextWord_foreground _ _).1 hw).2
  exact ⟨rfl, rfl, rfl, hpos, iff_of_false Bool.false_ne_true (State.foregroundAt_fgNext hprog hi)⟩

theorem State.HostProtocol.effect (h : s.HostProtocol) (hal : t.Aligned)
    (hw : s.nextWord i.agent = some (encode i)) (he : Effect s i t) : t.HostProtocol := by
  obtain ⟨hfg, hih⟩ := he.programs
  refine ⟨hal, by rw [hfg]; exact h.program, hih.trans h.handler, fun hnot => ?_, fun hinit => ?_⟩
  · cases hs : s.hostInited with
    | true => simp [(he.inited hs).1] at hnot
    | false =>
      rcases he.of_not_inited hs with rfl | rfl
      · exact h.beforeInit hs
      · simp at hnot
  · cases hs : s.hostInited with
    | true => exact h.stage_effect hs hw he
    | false =>
      obtain ⟨rfl, rfl⟩ := he.eq_init hs hinit
      exact ⟨.quiet, h.stage_init hs hw⟩

theorem State.HostProtocol.withInputs (h : s.HostProtocol) (ts : List Turn) (n : Nat) :
    State.HostProtocol { s with turns := ts, draws := n } :=
  ⟨h.aligned.withInputs ts n, h.program, h.handler, h.beforeInit, fun hinit =>
    have ⟨g, hg⟩ := h.stage hinit
    ⟨g, hg.of_hostView rfl⟩⟩

theorem State.HostProtocol.turn {turn : Turn} (h : s.HostProtocol) (hturn : TurnEffect s turn t) :
    t.HostProtocol := by
  have hal := h.aligned.turn hturn
  cases hturn.move with
  | outside now mem owned raced hnow ht =>
    subst ht
    refine ⟨hal, h.program, h.handler, h.beforeInit, fun hinit => ?_⟩
    obtain ⟨g, hg⟩ := h.stage hinit
    exact ⟨g, hg.of_hostView rfl⟩
  | act i _ hw hx => exact h.effect hal hw (exec_effect hx)

theorem State.HostProtocol.step (h : s.HostProtocol) (hstep : step s = .next t) : t.HostProtocol := by
  obtain ⟨-, -, hturn⟩ := step_effect hstep
  rw [State.afterTurn_eta] at hturn
  exact (h.withInputs _ _).turn hturn

/-- A clear Active flag with the handler not running is found only between transfers. -/
theorem State.HostProtocol.quiet (h : s.HostProtocol) (hinit : s.hostInited = true)
    (hact : s.gateActive = false) (hinh : s.hostInh = false) :
    s.dchEn = false ∧ s.cchEn = false ∧ s.sigDone = false := by
  obtain ⟨g, hg⟩ := h.stage hinit
  cases g with
  | quiet =>
    obtain ⟨hc, hdone, -⟩ := hg
    exact ⟨(h.atRest hinit hc).dchOff, hc, hdone⟩
  | flight =>
    obtain ⟨-, -, -, -, hon, -⟩ := hg
    simp [hact] at hon
  | pending =>
    obtain ⟨-, -, -, -, hon, -⟩ := hg
    simp [hact] at hon
  | handler k =>
    obtain ⟨-, hrun, -⟩ := hg
    simp [hinh] at hrun

/-! ## Power-on with a program of host calls (R23, R60) -/

/-- What the caller's declarations leave as it is at power-on with configuration `c`. -/
structure State.NotBegun (c : Config) (s : State) : Prop where
  cfg : s.cfg = c
  notInited : s.hostInited = false
  noHandler : s.hostInh = false
  ihProg : s.ihProg = assemble (Macro.expand .handler)
  ihPos : s.ihPos = 0

theorem State.NotBegun.declare {c : Config} (h : s.NotBegun c) (base : Nat) (ws : List Word) :
    (s.declare base ws).NotBegun c := by
  rw [State.declare, State.storeWords_eta]
  exact ⟨h.cfg, h.notInited, h.noHandler, h.ihProg, h.ihPos⟩

theorem State.hostStart_notBegun (c : Config) (memLines : List (Nat × List Word)) (calls : List HostCall)
    (turns : List Turn) : (State.hostStart c memLines calls turns).NotBegun c := by
  have h := List.foldlRecOn (motive := State.NotBegun c) memLines
    (fun s line => s.declare line.1 line.2) (b := State.powerOn c) ⟨rfl, rfl, rfl, rfl, rfl⟩
    fun s hs line _ => hs.declare line.1 line.2
  exact ⟨h.cfg, h.notInited, h.noHandler, h.ihProg, h.ihPos⟩

theorem State.hostStart_sound {c : Config} (hc : configValid c = true) (memLines : List (Nat × List Word))
    (calls : List HostCall) (turns : List Turn) : (State.hostStart c memLines calls turns).Sound := by
  have h := List.foldlRecOn (motive := State.Sound) memLines (fun s line => s.declare line.1 line.2)
    (State.powerOn_sound hc) fun s hs line _ => hs.turn (.own line.1 line.2)
  exact ⟨h.cfgValid, h.memWf, h.dchRest, h.cchRest, h.dchIdxLt, h.cchIdxLt, h.ctsLe, h.racedRest⟩

theorem State.hostStart_protocol {c : Config} (hc : configValid c = true) (ha : c.startAligned = true)
    (memLines : List (Nat × List Word)) (calls : List HostCall) (turns : List Turn) :
    (State.hostStart c memLines calls turns).HostProtocol := by
  have h := State.hostStart_notBegun c memLines calls turns
  have hnot {p : Prop} (hinit : (State.hostStart c memLines calls turns).hostInited = true) : p := by
    simp [h.notInited] at hinit
  exact ⟨⟨State.hostStart_sound hc memLines calls turns, by rw [h.cfg, ha], hnot, hnot, hnot, hnot⟩,
    ⟨calls, rfl⟩, h.ihProg, fun _ => ⟨h.noHandler, h.ihPos⟩, hnot⟩

/-- A run that has come past INIT began with a valid configuration. -/
theorem Runs.configValid_of_inited {c : Config} {k : Nat} (h0 : s.NotBegun c) (h : Runs k s t)
    (hinit : t.hostInited = true) : configValid c = true := by
  cases k with
  | zero =>
    obtain rfl : s = t := h
    simp [h0.notInited] at hinit
  | succ k =>
    obtain ⟨u, hu, -⟩ := h
    obtain ⟨hwf, -, -⟩ := step_effect hu
    exact h0.cfg ▸ hwf

/-- Settles O56: the stages of the host are kept by every step, hold at power-on, and exclude a transfer, a
completion or a running handler where the Active flag is clear. -/
theorem inactiveGateMeansQuietHardware : Obligations.InactiveGateMeansQuietHardware := by
  refine ⟨fun _ _ h hstep => h.step hstep, fun _ h => h.quiet, fun c memLines calls turns ha =>
    ⟨fun hc => State.hostStart_protocol hc ha memLines calls turns, fun k s hrun hinit => ?_⟩⟩
  have hc := hrun.configValid_of_inited (State.hostStart_notBegun c memLines calls turns) hinit
  exact (hrun.invariant (fun _ _ h => h.step) (State.hostStart_protocol hc ha memLines calls turns)).quiet hinit

end Sys2Proof.Machine
end

section
/-! PROOFS. The frame memory (20_memory.md): the acts of the caller on it (R32, R34, R35, U1), the race of a
store with the DataChannel's read (R41), and that nothing else writes it but the scrub (R32). -/

namespace Sys2Proof.Machine

/-! ## Who writes memory (R32) -/

/-- The scrub is the only operation that changes memory. -/
theorem Effect.mem_eq_or_scrub {i : Instr} {s t : State} (h : Effect s i t) :
    t.mem = s.mem ∨ ∃ buf, i = .bufScrub buf ∧ s.cfg.skipclr = false := by
  cases h with
  | bufScrub buf _ hskip => exact .inr ⟨buf, rfl, hskip⟩
  | _ => exact .inl rfl

/-- Settles O45: a turn of an agent changes memory by the scrub alone, and time and
a range given up leave it. -/
theorem onlyTheHostWritesMemory : Obligations.OnlyTheHostWritesMemory := by
  intro s t h hne
  obtain ⟨-, -, hturn⟩ := step_effect h
  have hmem : s.afterTurn.mem = s.mem := by rw [State.afterTurn_eta]
  have hcfg : s.afterTurn.cfg = s.cfg := by rw [State.afterTurn_eta]
  rw [← hmem] at hne
  generalize hnext : s.nextTurn = turn at hturn
  cases hturn with
  | idle => exact absurd rfl hne
  | word a w i _ hw hi _ he =>
    rw [State.nextWord_afterTurn] at hw
    rcases (exec_effect he).mem_eq_or_scrub with heq | ⟨buf, rfl, hskip⟩
    · exact absurd heq hne
    · exact .inl ⟨buf, ⟨a, w, hnext, hw, hi⟩, hcfg ▸ hskip⟩
  | time => exact absurd rfl hne
  | own base ws => exact .inr (.inl ⟨base, ws, rfl⟩)
  | free => exact absurd rfl hne
  | store a w => exact .inr (.inr (.inl ⟨a, w, rfl⟩))
  | storeByte a b => exact .inr (.inr (.inr ⟨a, b, rfl⟩))

/-! ## Stores of the caller (R32, R34, R35) -/

section Acts

variable {s : State}

theorem takeTurn_callerStore {a : Nat} {w : Word} (h : a + 2 ≤ 2 ^ s.cfg.aw) :
    takeTurn (.callerStore a w) s = .next (s.storeWord a w) := if_neg (Nat.not_lt.2 h)

theorem takeTurn_callerStore_past {a : Nat} {w : Word} (h : 2 ^ s.cfg.aw < a + 2) :
    takeTurn (.callerStore a w) s = .refused .noSuchAddress := if_pos h

theorem takeTurn_callerStoreByte {a : Nat} {b : Byte} (h : a < 2 ^ s.cfg.aw) :
    takeTurn (.callerStoreByte a b) s = .next (s.storeByte a b) := if_neg (Nat.not_lt.2 h)

theorem takeTurn_callerStoreByte_past {a : Nat} {b : Byte} (h : 2 ^ s.cfg.aw ≤ a) :
    takeTurn (.callerStoreByte a b) s = .refused .noSuchAddress := if_pos (Nat.lt_succ_of_le h)

theorem takeTurn_callerOwn {base : Nat} {ws : List Word} (h : base + 2 * ws.length ≤ 2 ^ s.cfg.aw) :
    takeTurn (.callerOwn base ws) s = .next (s.declare base ws) := if_neg (Nat.not_lt.2 h)

theorem takeTurn_callerOwn_past {base : Nat} {ws : List Word} (h : 2 ^ s.cfg.aw < base + 2 * ws.length) :
    takeTurn (.callerOwn base ws) s = .refused .noSuchAddress := if_pos h

end Acts

/-- Settles O59: each store is one write of the frame memory, whose laws say what it reads as. -/
theorem callerStoreIsReadBack : Obligations.CallerStoreIsReadBack := by
  intro s a ts hc hp hm
  refine ⟨fun w ht h => ?_, fun w ht h => ?_, fun b ht h => ?_, fun b ht h => ?_⟩ <;>
    rw [step_of_turn hc hp ht]
  · refine ⟨_, takeTurn_callerStore h, Memory.readWord_writeWord _ _ _ _ hm,
      Memory.writeWord_wf _ _ _ _ hm, fun x h0 h1 => ?_, rfl⟩
    rw [State.storeWord_mem, Memory.readByte_writeWord _ _ _ _ _ hm, if_neg h0, if_neg h1]
  · exact takeTurn_callerStore_past h
  · refine ⟨_, takeTurn_callerStoreByte h, ?_, Memory.writeByte_wf _ _ _ hm, fun x hx => ?_, rfl⟩
    · rw [State.storeByte_mem, Memory.readByte_writeByte _ _ _ _ hm, if_pos rfl]
    · rw [State.storeByte_mem, Memory.readByte_writeByte _ _ _ _ hm, if_neg hx]
  · exact takeTurn_callerStoreByte_past h

/-! ## What the caller declares and gives up (R35, U1) -/

/-- The byte at `x` lies in the region. -/
def Region.holds (r : Region) (x : Nat) : Bool := decide (r.base ≤ x) && decide (x < r.base + r.size)

theorem State.owns_eq_any_holds (s : State) (x : Nat) : s.owns x = s.owned.any (·.holds x) := rfl

/-- What remains of a region holds its bytes outside the range given up. -/
theorem Region.any_holds_without (r : Region) (base size x : Nat) :
    (r.without base size).any (·.holds x) = (r.holds x && !decide (base ≤ x ∧ x < base + size)) := by
  rw [Bool.eq_iff_iff]
  simp only [Region.without, Region.holds, List.any_filter, List.any_cons, List.any_nil, Bool.or_false,
    Bool.or_eq_true, Bool.and_eq_true, decide_eq_true_eq, Bool.not_eq_true', decide_eq_false_iff_not]
  omega

theorem State.owns_declare (s : State) (base : Nat) (ws : List Word) (x : Nat) :
    (s.declare base ws).owns x = (s.owns x || decide (base ≤ x ∧ x < base + 2 * ws.length)) := by
  simp [State.owns_eq_any_holds, State.declare, Region.holds, Bool.or_comm]

/-- Giving up a range of bytes takes it from every region. -/
theorem any_holds_flatMap_without (rs : List Region) (base size x : Nat) :
    (rs.flatMap (·.without base size)).any (·.holds x) =
      (rs.any (·.holds x) && !decide (base ≤ x ∧ x < base + size)) := by
  induction rs with
  | nil => rfl
  | cons r rs ih =>
    rw [List.flatMap_cons, List.any_append, ih, Region.any_holds_without, List.any_cons,
      Bool.and_or_distrib_right]

/-- A declaration changes memory, what is owned, and the races alone. -/
theorem State.declare_eta (s : State) (base : Nat) (ws : List Word) :
    s.declare base ws = { s with
      mem := (s.storeWords base ws).mem
      owned := ⟨base, 2 * ws.length⟩ :: s.owned
      raced := (s.storeWords base ws).raced } := by
  rw [State.declare, State.storeWords_eta]

/-- The races that stores leave do not depend on the turns to come. -/
theorem State.storeWords_raced_turns (s : State) (a : Nat) (ws : List Word) (ts : List Turn) :
    (State.storeWords { s with turns := ts } a ws).raced = (s.storeWords a ws).raced := by
  induction ws generalizing s a with
  | nil => rfl
  | cons w ws ih => exact ih (s.storeWord a w) (a + 2)

/-- Settles O60: a declaration is the stores of its words with one region more; giving up cuts
every region. -/
theorem callerOwnsWhatItDeclares : Obligations.CallerOwnsWhatItDeclares := by
  refine ⟨fun s base ws ts hc hp ht hm => ⟨fun h => ?_, fun h => ?_⟩,
    fun s base size ts hc hp ht => ?_⟩ <;>
    rw [step_of_turn hc hp ht]
  · let u : State := { s with turns := ts }
    refine ⟨u.declare base ws, takeTurn_callerOwn h, fun k hk => u.readWord_storeWords base ws k hm hk,
      fun x hx => u.readByte_storeWords base x ws hm hx, u.storeWords_memWf base ws hm,
      u.owns_declare base ws, u.storeWords_raced base ws, ?_⟩
    rw [u.declare_eta, s.storeWords_raced_turns]
  · exact takeTurn_callerOwn_past h
  · exact ⟨_, rfl, any_holds_flatMap_without s.owned base size, rfl⟩

/-! ## A store that races with the DataChannel's read (R41) -/

/-- The word a read gives is the one in memory, or one that a racing store has replaced. -/
theorem State.frameWord_mem (s : State) (a : Nat) : s.frameWord a ∈ s.readWord a :: s.racedValues a := by
  unfold State.frameWord
  split
  · exact List.mem_cons_self
  · generalize s.racedValues a = olds
    have hlt : Config.freeNat s.draws % (olds.length + 1) < (s.readWord a :: olds).length :=
      Nat.mod_lt _ (Nat.succ_pos _)
    rw [List.getD_eq_getElem _ _ hlt]
    exact List.getElem_mem hlt

/-- After the first store to an aligned word of a pass its old value is the one race on it. -/
theorem State.racedValues_storeWord {s : State} {a : Nat} (w : Word) (hd : s.dchEn = true)
    (heven : a % 2 = 0) (hr : s.raced = []) : (s.storeWord a w).racedValues a = [s.readWord a] := by
  simp [State.racedValues, State.racedAfter, wordsTouched, hd, heven, hr]

/-- After that store a read gives the old word or the new one, whole (R41). -/
theorem State.frameWord_storeWord {s : State} {a : Nat} (w : Word) (hm : s.mem.wf) (hd : s.dchEn = true)
    (heven : a % 2 = 0) (hr : s.raced = []) :
    (s.storeWord a w).frameWord a = s.readWord a ∨ (s.storeWord a w).frameWord a = w := by
  have hword := (s.storeWord a w).frameWord_mem a
  have hnew : (s.storeWord a w).readWord a = w := Memory.readWord_writeWord _ _ _ _ hm
  rw [hnew, State.racedValues_storeWord w hd heven hr, List.mem_cons, List.mem_singleton] at hword
  exact hword.symm

/-- The service of a triggered DataChannel whose read is admitted (R83). -/
theorem takeTurn_dataChannel {s : State} (hi : s.hostInited = true) (hd : s.dchEn = true)
    (hl : s.latA = true) (hr : s.dchReadAdmitted = true) :
    takeTurn (.agent .dataChannel) s = .next s.serveData := by
  rw [takeTurn_of_nextWord (s := s) (a := .dataChannel) rfl (decode_encode .dchXfer) rfl]
  simp [exec, execDchXfer, State.dchTriggered, hi, hd, hl, hr]

/-- A caller has stored the word the DataChannel reads next, and `ts` are the turns to come. -/
def State.nextStored (s : State) (w : Word) (ts : List Turn) : State :=
  State.storeWord { s with turns := ts } s.dchAddr w

/-- Settles O20: the store leaves the old word as the one race, and the service sends it or the new word. -/
theorem racingStoreGivesOldOrNewWord : Obligations.RacingStoreGivesOldOrNewWord := by
  rintro s _ w ts hc hp hm hi hd hl harm rfl heven htop h0 h1 hraced ht
  have hstore : step s = .next (s.nextStored w (.agent .dataChannel :: ts)) :=
    (step_of_turn hc hp ht).trans (takeTurn_callerStore htop)
  have hread : (s.nextStored w ts).dchReadAdmitted = true := by
    rw [State.dchReadAdmitted, Bool.and_eq_true, Bool.and_eq_true]
    exact ⟨⟨harm, h0⟩, h1⟩
  have hserve : step (s.nextStored w (.agent .dataChannel :: ts)) = .next (s.nextStored w ts).serveData :=
    (step_of_turn (s := s.nextStored w _) hc hp rfl).trans (takeTurn_dataChannel hi hd hl hread)
  have hword := State.frameWord_storeWord (s := { s with turns := ts }) w hm hd heven hraced
  exact ⟨(s.nextStored w ts).serveData, .succ hstore (.succ hserve (.zero _)), hword, rfl, rfl⟩

end Sys2Proof.Machine
end

section
/-! PROOFS. The encoding family (30_encoding.md): the round trips of the operation word (R54, R57), the
reserved words and what a program with one does (R58), and the text of an operation read back (R60). -/

namespace Sys2Proof

/-! ## Operation words (R54, R57) -/

/-- The numbering of `opcode_table.json` is the number of the operation word. -/
theorem decodeTableWord_toNat (w : OpWord) : decodeTableWord 40 w.toNat = decode w := by
  have hlt : w.toNat < 2 ^ 40 := w.isLt
  rw [decodeTableWord, Nat.mod_eq_of_lt hlt, if_pos hlt, BitVec.ofNat_toNat, BitVec.setWidth_eq]

/-- Settles O1: the two fields of the word are the number and the operand, and the map inverts the number. -/
theorem decodeOfEncode : Obligations.DecodeOfEncode := by
  intro i
  rw [decodeTableWord_toNat]
  exact ⟨decode_encode i, decode_encode i⟩

/-- Settles O2: a word is its two fields put together, and the map fixes both. -/
theorem encodeOfDecode : Obligations.EncodeOfDecode := fun _ _ => encode_eq_of_decode

/-! ## Reserved words (R58) -/

theorem decodeZ_eq_none_iff (i : Instr) (arg : Addr) : decodeZ i arg = none ↔ arg ≠ 0 := by
  rw [decodeZ, ite_eq_right_iff, imp_iff_not (Option.some_ne_none i)]

/-- The map gives nothing for a reserved number, and for an operand where it says 0 (R57, R58). -/
theorem decodeOp_eq_none_iff (op : Nat) (arg : Addr) :
    decodeOp op arg = none ↔
      op = 0x00 ∨ (0x0A ≤ op ∧ op ≤ 0x0F) ∨ (0x14 ≤ op ∧ op ≤ 0x1F) ∨ 0x29 ≤ op ∨
        (arg ≠ 0 ∧ op ≠ 0x02 ∧ op ≠ 0x22) := by
  unfold decodeOp
  split
  case h_23 =>
    -- A number that is none of the 22 of the map lies in one of the ranges.
    simp only [imp_false, true_iff] at *
    omega
  all_goals simp [decodeZ_eq_none_iff]

/-- The words the host may not write in a program: the reserved ones and those of class EV (R58). -/
theorem hostWord_eq_false_iff (w : OpWord) :
    hostWord w = false ↔ decode w = none ∨ ∃ i, decode w = some i ∧ i.opClass = .ev := by
  unfold hostWord
  cases decode w <;> simp

end Sys2Proof

namespace Sys2Proof.Machine

/-- A program or a handler with a word the host may not write fails the check of the programs. -/
theorem State.programsOk_eq_false {s : State} {w : OpWord} (hw : w ∈ s.fgProg ∨ w ∈ s.ihProg)
    (h : hostWord w = false) : s.programsOk = false := by
  rw [State.programsOk, Bool.and_eq_false_iff, programWf, programWf, List.all_eq_false, List.all_eq_false]
  exact hw.imp (fun hm => ⟨w, hm, by simp [h]⟩) (fun hm => ⟨w, hm, by simp [h]⟩)

theorem step_of_programsOk_false {s : State} (hc : s.cfg.wf = true) (hp : s.programsOk = false) :
    step s = .refused .reservedOperation := by
  simp [step, runStep, hc, hp]

/-- Settles O3: the map read number by number, and the check of the programs that comes before the turn. -/
theorem reservedWordsAreRefused : Obligations.ReservedWordsAreRefused := by
  refine ⟨fun w => decodeOp_eq_none_iff _ _, fun s w hc hmem hbad => ?_⟩
  exact step_of_programsOk_false hc (State.programsOk_eq_false hmem ((hostWord_eq_false_iff w).2 hbad))

/-- Settles O4: eight words of operations, a reserved number and an operand where the map says 0. -/
theorem specWordsDecode : Obligations.SpecWordsDecode :=
  ⟨decode_encode .init, decode_encode (.dchArm 0x20000100), decode_encode .xferGo,
    decode_encode .portIdle, decode_encode .edgeA, decode_encode .cchXfer,
    decode_encode (.bufScrub 0x20000100), decode_encode .irqExit,
    (reservedWordsAreRefused.1 _).2 (by decide), (reservedWordsAreRefused.1 _).2 (by decide)⟩

/-! ## The text of an operation (R60) -/

theorem splitAtChar_cons_self (sep : Char) (cs : Chars) :
    splitAtChar sep (sep :: cs) = [] :: splitAtChar sep cs := by
  simp [splitAtChar]

/-- A character that is not the separator joins the first part. -/
theorem splitAtChar_cons_of_ne {sep c : Char} (h : c ≠ sep) {cs p : Chars} {ps : List Chars}
    (hcs : splitAtChar sep cs = p :: ps) : splitAtChar sep (c :: cs) = (c :: p) :: ps := by
  unfold splitAtChar at hcs ⊢
  rw [List.foldr_cons, hcs, if_neg h]

/-- Characters that are not the separator join the first part. -/
theorem splitAtChar_append {sep : Char} {t cs p : Chars} {ps : List Chars} (ht : sep ∉ t)
    (hcs : splitAtChar sep cs = p :: ps) : splitAtChar sep (t ++ cs) = (t ++ p) :: ps := by
  induction t with
  | nil => exact hcs
  | cons c t ih =>
    rw [List.mem_cons, not_or] at ht
    exact splitAtChar_cons_of_ne (Ne.symm ht.1) (ih ht.2)

theorem splitAtChar_of_not_mem {sep : Char} {t : Chars} (ht : sep ∉ t) : splitAtChar sep t = [t] := by
  have hsplit := splitAtChar_append (cs := []) ht rfl
  rwa [List.append_nil] at hsplit

/-- A token: a text of at least one character, none of them a space or the start of a comment. -/
def isToken (t : Chars) : Bool := t != [] && t.all (fun c => c != ' ' && c != ';')

theorem isToken_iff (t : Chars) : isToken t = true ↔ t ≠ [] ∧ ' ' ∉ t ∧ ';' ∉ t := by
  simp only [isToken, Bool.and_eq_true, bne_iff_ne, List.all_eq_true, forall_and, List.forall_mem_ne']

/-- A text without a comment keeps all its characters. -/
theorem takeWhile_of_no_comment {line : Chars} (h : ';' ∉ line) :
    line.takeWhile (fun c => c != ';') = line := by
  rw [List.takeWhile_eq_self_iff]
  exact fun c hc => bne_iff_ne.2 fun he => h (he ▸ hc)

theorem lineTokens_token {t : Chars} (ht : isToken t = true) : lineTokens t = [t] := by
  obtain ⟨hne, hspace, hcomment⟩ := (isToken_iff t).1 ht
  rw [lineTokens, takeWhile_of_no_comment hcomment, splitAtChar_of_not_mem hspace]
  simp [hne]

theorem lineTokens_two_tokens {t u : Chars} (ht : isToken t = true) (hu : isToken u = true) :
    lineTokens (t ++ ' ' :: u) = [t, u] := by
  obtain ⟨hne, hspace, hcomment⟩ := (isToken_iff t).1 ht
  obtain ⟨hne', hspace', hcomment'⟩ := (isToken_iff u).1 hu
  have hsplit : splitAtChar ' ' (t ++ ' ' :: u) = [t, u] := by
    rw [splitAtChar_append hspace (splitAtChar_cons_self ' ' u), splitAtChar_of_not_mem hspace',
      List.append_nil]
  rw [lineTokens, takeWhile_of_no_comment (by simp [hcomment, hcomment']), hsplit]
  simp [hne, hne']

/-! ## A number written and read back -/

theorem digitValue_hexDigit : ∀ d < 16, digitValue (hexDigit d) = some d := by decide

theorem readNumber_hexDigit : ∀ d < 16, readNumber 16 [hexDigit d] = some d := by decide

theorem isToken_hexDigit : ∀ d < 16, isToken [hexDigit d] = true := by decide

theorem isToken_append {t u : Chars} (ht : isToken t = true) (hu : isToken u = true) :
    isToken (t ++ u) = true := by
  rw [isToken_iff] at *
  simp [ht, hu]

theorem isToken_hexChars (width n : Nat) : isToken (hexChars (width + 1) n) = true := by
  have hdigit (m : Nat) : isToken [hexDigit (m % 16)] = true :=
    isToken_hexDigit _ (Nat.mod_lt _ (by decide))
  induction width generalizing n with
  | zero => exact hdigit n
  | succ width ih => exact isToken_append (ih _) (hdigit n)

/-- One more digit at the end of a number is worth its value below the number's base. -/
theorem readNumber_append_digit {base m d : Nat} {cs : Chars} {c : Char} (hcs : readNumber base cs = some m)
    (hc : digitValue c = some d) (hd : d < base) : readNumber base (cs ++ [c]) = some (m * base + d) := by
  unfold readNumber at hcs ⊢
  split_ifs at hcs
  simp [List.foldlM_append, hcs, hc, hd]

/-- A number that fits in one or more digits reads back from them. -/
theorem readNumber_hexChars (width n : Nat) (h : n < 16 ^ (width + 1)) :
    readNumber 16 (hexChars (width + 1) n) = some n := by
  have hmod : n % 16 < 16 := Nat.mod_lt _ (by decide)
  induction width generalizing n with
  | zero => exact (readNumber_hexDigit _ hmod).trans (congrArg some (Nat.mod_eq_of_lt h))
  | succ width ih =>
    have hdiv : n / 16 < 16 ^ (width + 1) := Nat.div_lt_of_lt_mul (by rwa [← Nat.pow_succ'])
    have hread := readNumber_append_digit (ih _ hdiv (Nat.mod_lt _ (by decide))) (digitValue_hexDigit _ hmod)
      hmod
    rwa [Nat.div_add_mod'] at hread

/-- A byte address written as an operand reads back, when no symbol is bound. -/
theorem readOperand_hexChars (a : Addr) : readOperand [] ("0x".toList ++ hexChars 8 a.toNat) = some a := by
  have hread : readHex ("0x".toList ++ hexChars 8 a.toNat) = some a.toNat :=
    readNumber_hexChars 7 a.toNat a.isLt
  rw [readOperand, List.lookup_nil, hread, Option.bind_some, if_pos a.isLt, BitVec.ofNat_toNat,
    BitVec.setWidth_eq]

/-! ## The mnemonic and the operand -/

theorem isToken_mnemonic (i : Instr) : isToken i.mnemonic.toList = true := by
  cases i <;> simp only [Instr.mnemonic] <;> decide

/-- The mnemonic of an operation without an operand reads as that operation. -/
theorem readOperation_mnemonic {i : Instr} (h : i.operand = none) :
    readOperation [] [i.mnemonic.toList] = some [i] := by
  cases i with
  | dchArm | bufScrub => cases h
  | _ => rfl

/-- The mnemonic of an operation with an operand reads as that operation with the operand read. -/
theorem readOperation_mnemonic_operand {syms : Symbols} {i : Instr} {a : Addr} {t : Chars}
    (h : i.operand = some a) (ht : readOperand syms t = some a) :
    readOperation syms [i.mnemonic.toList, t] = some [i] := by
  cases i with
  | dchArm | bufScrub =>
    cases h
    simp [readOperation, ht, Instr.mnemonic]
  | _ => cases h

theorem text_of_operand_none {i : Instr} (h : i.operand = none) : Instr.text i = i.mnemonic.toList := by
  rw [Instr.text, h]

theorem text_of_operand_some {i : Instr} {a : Addr} (h : i.operand = some a) :
    Instr.text i = i.mnemonic.toList ++ ' ' :: ("0x".toList ++ hexChars 8 a.toNat) := by
  rw [Instr.text, h]
  simp

/-- Settles O5: the text is one token or two; the mnemonics are told apart, and the digits read back. -/
theorem operationTextReadsBack : Obligations.OperationTextReadsBack := by
  intro i
  cases h : i.operand with
  | none =>
    rw [text_of_operand_none h, lineTokens_token (isToken_mnemonic i)]
    exact readOperation_mnemonic h
  | some a =>
    have hoperand : isToken ("0x".toList ++ hexChars 8 a.toNat) = true :=
      isToken_append (by decide) (isToken_hexChars 7 _)
    rw [text_of_operand_some h, lineTokens_two_tokens (isToken_mnemonic i) hoperand]
    exact readOperation_mnemonic_operand h (readOperand_hexChars a)

end Sys2Proof.Machine
end

section
/-! PROOFS. The EdgeClockGenerator (40_edge_clock_generator.md): what each edge does and when it is held
(R71, R72, R73), and that the hardware stops only on a read that is not admitted (R73, R76, R83 (d)). -/

namespace Sys2Proof.Machine

/-! ## The row of an operation (R57) -/

/-- The word of an operation fixes its row. -/
theorem hasRow_of_encode {i : Instr} {w : OpWord} (h : encode i = w) : hasRow i w i.opClass i.agent :=
  ⟨h, h ▸ decode_encode i, rfl, rfl⟩

/-! ## The two edges under one guard (R71, R72, R73) -/

/-- The operation of an edge (R71, R72). -/
def edgeEvent : Edge → Instr
  | .A => .edgeA
  | .B => .edgeB

/-- The edge that follows an edge: the two alternate (R70). -/
def edgeAfter : Edge → Edge
  | .A => .B
  | .B => .A

theorem edgeAfter_ne (e : Edge) : edgeAfter e ≠ e := by cases e <;> decide

theorem edgeEvent_opClass (e : Edge) : (edgeEvent e).opClass = .ev := by cases e <;> rfl

theorem State.edge_ecgNext (s : State) (e : Edge) : (s.edge e).ecgNext = edgeAfter e := by cases e <;> rfl

/-- What an edge does: its effect where its guard holds, and nothing otherwise. -/
theorem exec_edgeEvent (e : Edge) (s : State) :
    exec (edgeEvent e) s = if s.edgeEnabled e then .next (s.edge e) else .next s := by
  cases e <;> rfl

/-- An enabled channel with its latch set, channel by channel (R73). -/
theorem State.servicePending_iff (s : State) :
    s.servicePending = true ↔ (s.dchEn = true ∧ s.latA = true) ∨ (s.cchEn = true ∧ s.latB = true) := by
  simp [State.servicePending]

/-- The guard of an edge, condition by condition (R71, R72, R171). -/
theorem State.edgeEnabled_iff (s : State) (e : Edge) :
    s.edgeEnabled e = true ↔
      s.hostInited = true ∧ s.ecgRun = true ∧ s.ecgNext = e ∧ ¬ s.servicePending = true := by
  simp [State.edgeEnabled, and_assoc]

section Guard

variable {e : Edge} {s : State}

/-- The next edge is taken when the generator runs and no service is pending. -/
theorem exec_edgeEvent_of_free (hi : s.hostInited = true) (hr : s.ecgRun = true) (hn : s.ecgNext = e)
    (hA : ¬ (s.dchEn = true ∧ s.latA = true)) (hB : ¬ (s.cchEn = true ∧ s.latB = true)) :
    exec (edgeEvent e) s = .next (s.edge e) := by
  have hfree : ¬ s.servicePending = true := fun h => (s.servicePending_iff.1 h).elim hA hB
  rw [exec_edgeEvent, if_pos ((s.edgeEnabled_iff e).2 ⟨hi, hr, hn, hfree⟩)]

/-- An edge is held before INIT, without the run flag, out of its turn, and by a pending service. -/
theorem exec_edgeEvent_of_held (h : s.hostInited = false ∨ s.ecgRun = false ∨ s.ecgNext = edgeAfter e ∨
      (s.dchEn = true ∧ s.latA = true) ∨ (s.cchEn = true ∧ s.latB = true)) :
    exec (edgeEvent e) s = .next s := by
  rw [exec_edgeEvent, if_neg]
  intro henabled
  obtain ⟨hi, hr, hn, hfree⟩ := (s.edgeEnabled_iff e).1 henabled
  obtain hinit | hrun | hnext | hpending := h
  · simp [hi] at hinit
  · simp [hr] at hrun
  · exact edgeAfter_ne e (hnext ▸ hn)
  · exact hfree (s.servicePending_iff.2 hpending)

end Guard

/-- Settles O13: the guard of an edge, read at edge A. -/
theorem edgeASetsItsLatch : Obligations.EdgeASetsItsLatch :=
  ⟨hasRow_of_encode rfl, fun _ => ⟨exec_edgeEvent_of_free (e := .A), exec_edgeEvent_of_held (e := .A)⟩⟩

/-- Settles O14: the guard of an edge, read at edge B. -/
theorem edgeBSetsItsLatch : Obligations.EdgeBSetsItsLatch :=
  ⟨hasRow_of_encode rfl, fun _ => ⟨exec_edgeEvent_of_free (e := .B), exec_edgeEvent_of_held (e := .B)⟩⟩

/-! ## The hardware always has a step (R73, R76) -/

section Service

variable {s : State}

/-- The DataChannel is served when it is triggered and its read is admitted (R83). -/
theorem exec_dchXfer (hi : s.hostInited = true) (hd : s.dchEn = true) (hl : s.latA = true)
    (hread : s.dchReadAdmitted = true) : exec .dchXfer s = .next s.serveData := by
  simp [exec, execDchXfer, State.dchTriggered, hi, hd, hl, hread]

/-- A service clears its latch, so it changes the state (R83). -/
theorem State.serveData_ne (hl : s.latA = true) : s.serveData ≠ s :=
  fun h => by simpa [hl] using congrArg State.latA h

/-- A service clears its latch, so it changes the state (R93). -/
theorem State.serveClock_ne (hl : s.latB = true) : s.serveClock ≠ s :=
  fun h => by simpa [hl] using congrArg State.latB h

end Service

/-- The next edge makes the other one next, so it changes the state. -/
theorem State.edge_next_ne (s : State) : s.edge s.ecgNext ≠ s :=
  fun h => edgeAfter_ne s.ecgNext ((s.edge_ecgNext _).symm.trans (congrArg State.ecgNext h))

/-- Settles O15: a pending service has its step, which lifts the hold, and with none pending the next edge
is taken. -/
theorem hardwareNeverDeadlocks : Obligations.HardwareNeverDeadlocks := by
  intro s hi hr
  by_cases hA : s.dchEn = true ∧ s.latA = true
  · obtain ⟨hd, hl⟩ := hA
    cases hread : s.dchReadAdmitted with
    | true => exact .inl ⟨.dchXfer, _, rfl, exec_dchXfer hi hd hl hread, State.serveData_ne hl⟩
    | false => exact .inr ⟨hd, hl, rfl⟩
  · left
    by_cases hB : s.cchEn = true ∧ s.latB = true
    · obtain ⟨hc, hl⟩ := hB
      exact ⟨.cchXfer, _, rfl, exec_cchXfer hi hc hl, State.serveClock_ne hl⟩
    · exact ⟨edgeEvent s.ecgNext, _, edgeEvent_opClass _, exec_edgeEvent_of_free hi hr rfl hA hB,
        s.edge_next_ne⟩

end Sys2Proof.Machine
end

section
/-! PROOFS. The DataChannel (41_data_channel.md): its commands (R81, R82), its service and where it is held
(R83, R41), and the `N` ticks of a transfer (R84, R98, R107). -/

namespace Sys2Proof.Machine

/-! ## The commands (R81, R82) -/

/-- Before INIT an operation of the host is refused, whatever it would answer (R171). -/
theorem afterInit_before {s : State} (h : s.hostInited = false) (answer : Answer) :
    afterInit s answer = .refused .beforeInit := by
  simp [afterInit, h]

/-- After INIT an operation of the host answers what its own rule says (R171). -/
theorem afterInit_inited {s : State} (h : s.hostInited = true) (answer : Answer) :
    afterInit s answer = answer := if_pos h

theorem oddAddress_iff (a : Addr) : oddAddress a = true ↔ a.toNat % 2 ≠ 0 := by simp [oddAddress]

theorem oddAddress_eq_false_iff (a : Addr) : oddAddress a = false ↔ a.toNat % 2 = 0 := by
  simp [oddAddress]

theorem pastTop_iff (c : Config) (a : Addr) : pastTop c a = true ↔ 2 ^ c.aw < a.toNat + c.bufsize := by
  simp [pastTop]

theorem pastTop_eq_false_iff (c : Config) (a : Addr) :
    pastTop c a = false ↔ a.toNat + c.bufsize ≤ 2 ^ c.aw := by
  simp [pastTop]

section Commands

variable {s : State} {src : Addr}

theorem exec_dchArm_enabled (hi : s.hostInited = true) (h : s.dchEn = true ∨ s.cchEn = true) :
    exec (.dchArm src) s = .refused .armWhileEnabled := by
  simp [exec, execDchArm, afterInit_inited hi, State.channelEnabled, h]

theorem exec_dchArm_odd (hi : s.hostInited = true) (hd : s.dchEn = false) (hc : s.cchEn = false)
    (ho : oddAddress src = true) : exec (.dchArm src) s = .refused .misalignedBuffer := by
  simp [exec, execDchArm, afterInit_inited hi, State.channelEnabled, hd, hc, ho]

theorem exec_dchArm_pastTop (hi : s.hostInited = true) (hd : s.dchEn = false) (hc : s.cchEn = false)
    (ho : oddAddress src = false) (hp : pastTop s.cfg src = true) :
    exec (.dchArm src) s = .refused .bufferPastTop := by
  simp [exec, execDchArm, afterInit_inited hi, State.channelEnabled, hd, hc, ho, hp]

theorem exec_dchStart_enabled (hi : s.hostInited = true) (hd : s.dchEn = true) :
    exec .dchStart s = .refused .startWhileEnabled := by
  simp [exec, execDchStart, afterInit_inited hi, hd]

theorem exec_dchStart_aligned (hi : s.hostInited = true) (hd : s.dchEn = false)
    (ha : s.cfg.startAligned = true) : exec .dchStart s = .refused .useXferGo := by
  simp [exec, execDchStart, afterInit_inited hi, hd, ha]

theorem exec_dchStart (hi : s.hostInited = true) (hd : s.dchEn = false)
    (ha : s.cfg.startAligned = false) : exec .dchStart s = .next { s with dchEn := true }.fgNext := by
  simp [exec, execDchStart, afterInit_inited hi, hd, ha]

end Commands

/-- Settles O16: each refusal has the condition of its rule, tested in R81's order. -/
theorem dchArmBindsTheBuffer : Obligations.DchArmBindsTheBuffer := by
  intro s src
  exact ⟨hasRow_of_encode rfl, fun hi => afterInit_before hi _, exec_dchArm_enabled,
    fun hi hd hc ho => exec_dchArm_odd hi hd hc ((oddAddress_iff src).2 ho),
    fun hi hd hc ho hp =>
      exec_dchArm_pastTop hi hd hc ((oddAddress_eq_false_iff src).2 ho) ((pastTop_iff _ src).2 hp),
    fun hi hd hc ho hp =>
      exec_dchArm hi hd hc ((oddAddress_eq_false_iff src).2 ho) ((pastTop_eq_false_iff _ src).2 hp)⟩

/-- Settles O17: the refusals of R82 in order, and the start where none falls. -/
theorem dchStartEnablesTheChannel : Obligations.DchStartEnablesTheChannel :=
  ⟨hasRow_of_encode rfl, fun _ => ⟨fun hi => afterInit_before hi _, exec_dchStart_enabled,
    exec_dchStart_aligned, exec_dchStart⟩⟩

/-! ## The service (R83, R41) -/

/-- The races recorded for a word (R41). -/
theorem State.mem_racedValues (s : State) (a : Nat) (v : Word) :
    v ∈ s.racedValues a ↔ (a, v) ∈ s.raced := by
  simp [State.racedValues, and_comm]

/-- A word no store has raced for is read as it is in memory (R83). -/
theorem State.frameWord_of_no_race {s : State} {a : Nat} (h : s.racedValues a = []) :
    s.frameWord a = s.readWord a := by
  rw [State.frameWord, h]

/-- The service written out field by field (R83). -/
theorem State.serveData_eq (s : State) :
    s.serveData = { s with
      portOut := s.frameWord s.dchAddr
      trace := s.trace ++ [⟨.D, s.dchIdx, s.frameWord s.dchAddr⟩]
      latA := false
      dchIdx := nextIdx s.cfg.n s.dchIdx
      dchEn := decide (s.dchIdx + 1 ≠ s.cfg.n)
      raced := if s.dchIdx + 1 = s.cfg.n then [] else s.raced
      draws := if s.racedValues s.dchAddr = [] then s.draws else s.draws + 1 } := by
  simp only [State.serveData, State.writePort, wholeSide, List.isEmpty_iff, lastOfPass,
    ne_eq, decide_not, beq_eq_decide, decide_eq_true_eq]

/-- The read is admitted exactly on an armed pointer and two declared bytes (R82 (b), R35). -/
theorem State.dchReadAdmitted_iff (s : State) :
    s.dchReadAdmitted = true ↔
      s.dchArmed = true ∧ s.owns s.dchAddr = true ∧ s.owns (s.dchAddr + 1) = true := by
  simp [State.dchReadAdmitted, and_assoc]

/-- Settles O18: the word sent is the one the read gives, in memory or left by a race. -/
theorem dchXferSendsTheNextWord : Obligations.DchXferSendsTheNextWord := by
  refine ⟨hasRow_of_encode rfl, fun s hi hd hl harm h0 h1 => ?_⟩
  refine ⟨s.frameWord s.dchAddr, ?_, fun hnone => ?_, ?_⟩
  · obtain hmem | hrace := List.mem_cons.1 (s.frameWord_mem s.dchAddr)
    · exact .inl hmem
    · exact .inr ((s.mem_racedValues _ _).1 hrace)
  · exact State.frameWord_of_no_race (List.eq_nil_iff_forall_not_mem.2 fun v hv =>
      hnone v ((s.mem_racedValues _ v).1 hv))
  · exact (exec_dchXfer hi hd hl (s.dchReadAdmitted_iff.2 ⟨harm, h0, h1⟩)).trans
      (congrArg _ s.serveData_eq)

/-- The guard of the service, condition by condition (R83, R171). -/
theorem State.dchTriggered_iff (s : State) :
    s.dchTriggered = true ↔ s.hostInited = true ∧ s.dchEn = true ∧ s.latA = true := by
  simp [State.dchTriggered, and_assoc]

/-- Without its trigger or without its read the DataChannel has no step (R83). -/
theorem exec_dchXfer_of_held {s : State} (h : ¬ (s.dchTriggered = true ∧ s.dchReadAdmitted = true)) :
    exec .dchXfer s = .next s :=
  if_neg (by rwa [Bool.and_eq_true])

/-- Settles O19: the service lacks its trigger or its read, and a pending service holds both edges (R73). -/
theorem dchXferIsHeld : Obligations.DchXferIsHeld := by
  refine fun s => ⟨fun h => exec_dchXfer_of_held fun ⟨htrig, _⟩ => ?_, fun hd hl h => ⟨?_, ?_, ?_⟩⟩
  · obtain ⟨hi, hd, hl⟩ := s.dchTriggered_iff.1 htrig
    simp [hi, hd, hl] at h
  · refine exec_dchXfer_of_held fun ⟨_, hread⟩ => ?_
    obtain ⟨harm, h0, h1⟩ := s.dchReadAdmitted_iff.1 hread
    rw [State.dchAddr] at h0 h1
    simp [harm, h0, h1] at h
  · exact exec_edgeEvent_of_held (e := .A) (.inr (.inr (.inr (.inl ⟨hd, hl⟩))))
  · exact exec_edgeEvent_of_held (e := .B) (.inr (.inr (.inr (.inl ⟨hd, hl⟩))))

/-! ## The steps of the hardware on their turns (R9) -/

/-- The state with the turns to come replaced. -/
def State.onTurns (s : State) (ts : List Turn) : State := { s with turns := ts }

section Turns

variable {s : State} (hc : s.cfg.wf = true) (hp : s.programsOk = true) (hi : s.hostInited = true)
  (ts : List Turn)

include hc hp hi

/-- The generator takes its next edge while no service is pending (R71, R72). -/
theorem step_edge {e : Edge} (hr : s.ecgRun = true) (hn : s.ecgNext = e)
    (hA : ¬ (s.dchEn = true ∧ s.latA = true)) (hB : ¬ (s.cchEn = true ∧ s.latB = true)) :
    step (s.onTurns (.agent .generator :: ts)) = .next ((s.edge e).onTurns ts) := by
  have hrun := stepRunsTheHardwaresNextEvent (s.onTurns (.agent .generator :: ts)) ts hc hp
  have hedge := exec_edgeEvent_of_free (s := s.onTurns ts) hi hr hn hA hB
  cases e with
  | A => exact (hrun.1 rfl hn).trans hedge
  | B => exact (hrun.2.1 rfl hn).trans hedge

/-- The DataChannel serves when it is triggered and its read is admitted (R83). -/
theorem step_serveData (hd : s.dchEn = true) (hl : s.latA = true) (hread : s.dchReadAdmitted = true) :
    step (s.onTurns (.agent .dataChannel :: ts)) = .next (s.serveData.onTurns ts) :=
  (step_of_turn (s := s.onTurns (.agent .dataChannel :: ts)) hc hp rfl).trans
    (takeTurn_dataChannel (s := s.onTurns ts) hi hd hl hread)

/-- The ClockChannel serves when it is triggered (R93). -/
theorem step_serveClock (he : s.cchEn = true) (hl : s.latB = true) :
    step (s.onTurns (.agent .clockChannel :: ts)) = .next (s.serveClock.onTurns ts) :=
  ((stepRunsTheHardwaresNextEvent (s.onTurns (.agent .clockChannel :: ts)) ts hc hp).2.2.2 rfl).trans
    (exec_cchXfer (s := s.onTurns ts) hi he hl)

end Turns

/-! ## The ticks of a transfer (R84, R98, R107) -/

/-- A tick of a transfer is about to begin, with the bound buffer in declared memory and no race. -/
structure State.BeforeTick (s : State) : Prop where
  cfgWf : s.cfg.wf = true
  programsOk : s.programsOk = true
  inited : s.hostInited = true
  running : s.ecgRun = true
  next : s.ecgNext = .A
  atData : s.AtData
  armed : s.dchArmed = true
  owned : s.ownsBuffer s.dchSrc.toNat = true
  noRace : s.raced = []

/-- The state after edge A and the DataChannel's service. -/
def State.tickData (s : State) : State := (s.edge .A).serveData

/-- The state after one tick: edge B and the ClockChannel's service come after them. -/
def State.ticked (s : State) : State := (s.tickData.edge .B).serveClock

theorem State.BeforeTick.latA {s : State} (h : s.BeforeTick) : s.latA = false := by
  rw [h.atData.latA, h.next]
  rfl

/-- The four turns of a tick take the two edges and make the two services. -/
theorem State.BeforeTick.runs_tick {s : State} (h : s.BeforeTick) (hlt : s.dchIdx < s.cfg.n)
    (ts : List Turn) : Runs 4 (s.onTurns (tickTurns ++ ts)) (s.ticked.onTurns ts) := by
  obtain ⟨hc, hp, hi, hr, hn, hdata, harm, hown, -⟩ := id h
  have hB : ¬ (s.cchEn = true ∧ s.latB = true) := by simp [hdata.latB]
  have hread : (s.edge .A).dchReadAdmitted = true := State.dchReadAdmitted_of_ownsBuffer harm hlt hown
  exact
    .succ (step_edge hc hp hi _ hr hn (by simp [h.latA]) hB)
    (.succ (step_serveData (s := s.edge .A) hc hp hi _ hdata.dchOn rfl hread)
    (.succ (step_edge (s := s.tickData) hc hp hi _ hr rfl (by simp [State.tickData]) hB)
    (.succ (step_serveClock (s := s.tickData.edge .B) hc hp hi _ hdata.cchOn rfl) (.zero _))))

/-- With no race the service sends the word in memory, and draws nothing. -/
theorem State.serveData_of_no_race {s : State} (h : s.raced = []) :
    s.serveData = { s.writePort .D s.dchIdx (s.readWord s.dchAddr) with
      latA := false
      dchIdx := nextIdx s.cfg.n s.dchIdx
      dchEn := !lastOfPass s.cfg.n s.dchIdx } := by
  have hnone : s.racedValues s.dchAddr = [] := by simp [State.racedValues, h]
  simp [State.serveData, State.frameWord_of_no_race hnone, hnone, wholeSide, State.writePort, h]

/-- One tick written out: it sends the word of its cursor twice, the second time with the clock bits set. -/
theorem State.BeforeTick.ticked_eq {s : State} (h : s.BeforeTick) :
    s.ticked = { s with
      portOut := s.readWord s.dchAddr ||| s.cfg.clkmask
      trace := s.trace ++ [⟨.D, s.dchIdx, s.readWord s.dchAddr⟩,
        ⟨.C, s.dchIdx, s.readWord s.dchAddr ||| s.cfg.clkmask⟩]
      dchIdx := nextIdx s.cfg.n s.dchIdx, cchIdx := nextIdx s.cfg.n s.dchIdx
      dchEn := !lastOfPass s.cfg.n s.dchIdx, cchEn := !lastOfPass s.cfg.n s.dchIdx
      sigDone := s.sigDone || lastOfPass s.cfg.n s.dchIdx } := by
  have hA := h.latA
  obtain ⟨-, -, -, -, hn, ⟨-, -, hidx, hB, -⟩, -, -, hrace⟩ := h
  have hword : (s.edge .A).readWord (s.edge .A).dchAddr = s.readWord s.dchAddr := rfl
  rw [State.ticked, State.tickData, State.serveData_of_no_race (s := s.edge .A) hrace, hword]
  simp [State.edge, State.serveClock, State.writePort, setSide, hA, hn, hidx, hB]

/-- A tick that is not the last leads to the next one. -/
theorem State.BeforeTick.ticked {s : State} (h : s.BeforeTick) (hmore : s.dchIdx + 1 < s.cfg.n) :
    s.ticked.BeforeTick := by
  have hlast : lastOfPass s.cfg.n s.dchIdx = false := beq_false_of_ne hmore.ne
  obtain ⟨hc, hp, hi, hr, hn, hdata, harm, hown, hrace⟩ := id h
  rw [h.ticked_eq, hlast]
  exact ⟨hc, hp, hi, hr, hn, ⟨rfl, rfl, rfl, hdata.latB, hdata.latA⟩, harm, hown, hrace⟩

/-- The words of the bound buffer from word `k` on, `m` of them. -/
def State.wordsFrom (s : State) (k m : Nat) : List Word :=
  (List.range' k m).map fun j => s.readWord (s.dchSrc.toNat + 2 * j)

theorem State.wordsFrom_zero (s : State) : s.wordsFrom 0 s.cfg.n = s.bufferWords s.dchSrc.toNat := by
  rw [State.wordsFrom, State.bufferWords, List.range_eq_range']

/-- The state a transfer leaves when the ticks to come send the words `ws`, `last` the last of them. -/
def State.transferred (s : State) (ws : List Word) (last : Word) : State :=
  { s with
    portOut := last ||| s.cfg.clkmask
    trace := s.trace ++ tickWrites s.cfg.clkmask s.dchIdx ws
    dchEn := false, dchIdx := 0, cchEn := false, cchIdx := 0, sigDone := true }

/-- A last tick ends the transfer (R84, R98). -/
theorem State.BeforeTick.ticked_last {s : State} (h : s.BeforeTick) (hlast : s.dchIdx + 1 = s.cfg.n) :
    s.ticked = s.transferred [s.readWord s.dchAddr] (s.readWord s.dchAddr) := by
  have hl : lastOfPass s.cfg.n s.dchIdx = true := (lastOfPass_iff _ _).2 hlast
  rw [h.ticked_eq, nextIdx_of_last hl, hl, Bool.or_true]
  rfl

/-- A tick before the last sends the first of the words the transfer has left. -/
theorem State.BeforeTick.ticked_transferred {s : State} (h : s.BeforeTick)
    (hmore : s.dchIdx + 1 < s.cfg.n) (ws : List Word) (last : Word) :
    s.ticked.transferred ws last = s.transferred (s.readWord s.dchAddr :: ws) last := by
  have hnext : nextIdx s.cfg.n s.dchIdx = s.dchIdx + 1 := Nat.mod_eq_of_lt hmore
  rw [h.ticked_eq, hnext]
  simp [State.transferred, tickWrites]

/-- The ticks from word `k` on run the rest of the transfer: by induction on the ticks left after the next. -/
theorem State.BeforeTick.runs {s : State} (h : s.BeforeTick) (ts : List Turn) (m : Nat)
    (hm : s.dchIdx + (m + 1) = s.cfg.n) :
    Runs (4 * (m + 1)) (s.onTurns (ticksTurns (m + 1) ++ ts))
      ((s.transferred (s.wordsFrom s.dchIdx (m + 1))
        (s.readWord (s.dchSrc.toNat + 2 * (s.cfg.n - 1)))).onTurns ts) := by
  induction m generalizing s with
  | zero =>
    have hfinal := h.runs_tick (by omega) ts
    rw [h.ticked_last hm] at hfinal
    have hidx : s.cfg.n - 1 = s.dchIdx := by omega
    rw [hidx]
    exact hfinal
  | succ m ih =>
    have hmore : s.dchIdx + 1 < s.cfg.n := by omega
    have hidx : s.ticked.dchIdx = s.dchIdx + 1 := by
      rw [h.ticked_eq]
      exact Nat.mod_eq_of_lt hmore
    have htick := h.runs_tick (by omega) (ticksTurns (m + 1) ++ ts)
    have hrest := ih (h.ticked hmore) (hidx ▸ (by omega : s.dchIdx + 1 + (m + 1) = s.cfg.n))
    rw [h.ticked_transferred hmore, hidx] at hrest
    rw [Nat.mul_succ, Nat.add_comm]
    exact htick.add hrest

theorem State.getLast?_bufferWords (s : State) (base : Nat) (h : 0 < s.cfg.n) :
    (s.bufferWords base).getLast? = some (s.readWord (base + 2 * (s.cfg.n - 1))) := by
  rw [State.bufferWords, List.getLast?_map, List.getLast?_range, if_neg h.ne']
  rfl

/-- Settles O54: the state an aligned start leaves is before the first of `N` ticks. -/
theorem transferSendsEveryWord : Obligations.TransferSendsEveryWord := by
  intro s ts hc hp hi hr hn hA hB hd he hdi hci harm hown hrace ht
  have hpos : 0 < s.cfg.n := configValid_n_pos hc
  have hbefore : s.BeforeTick :=
    ⟨hc, hp, hi, hr, hn, ⟨hd, he, hdi.trans hci.symm, hB, by rw [hA, hn]; rfl⟩, harm, hown, hrace⟩
  have hrun := hbefore.runs ts (s.cfg.n - 1) (by omega)
  rw [Nat.sub_add_cancel hpos, hdi, s.wordsFrom_zero] at hrun
  refine ⟨_, s.getLast?_bufferWords _ hpos, ?_⟩
  have hstart : s.onTurns (ticksTurns s.cfg.n ++ ts) = s := by rw [← ht]; rfl
  have hend (ws : List Word) (last : Word) : (s.transferred ws last).onTurns ts =
    { s with
      portOut := last ||| s.cfg.clkmask
      trace := s.trace ++ tickWrites s.cfg.clkmask 0 ws
      dchEn := false, cchEn := false, sigDone := true, turns := ts } := by
    simp [State.transferred, State.onTurns, hdi, hci]
  rwa [hstart, hend] at hrun

end Sys2Proof.Machine
end

section
/-! PROOFS. The ClockChannel and the joint operations (42_clock_channel.md): the starts (R92, R95), the service
(R93) and the two operations that only clear (R94, R96). -/

namespace Sys2Proof.Machine

/-! ## The guards (R93, R95, R96) -/

/-- One of the channels is enabled, channel by channel (R95, R96). -/
theorem State.channelEnabled_iff (s : State) :
    s.channelEnabled = true ↔ s.dchEn = true ∨ s.cchEn = true := by
  simp [State.channelEnabled]

theorem State.channelEnabled_eq_false {s : State} (hd : s.dchEn = false) (hc : s.cchEn = false) :
    s.channelEnabled = false := by
  simp [State.channelEnabled, hd, hc]

/-- The phase admits the joint start when it need not be aligned, or edge A is next (R95). -/
theorem State.startInPhase_iff (s : State) :
    s.startInPhase = true ↔ s.cfg.startAligned = false ∨ s.ecgNext = .A := by
  simp [State.startInPhase]

theorem State.startInPhase_eq_false {s : State} (ha : s.cfg.startAligned = true) (hn : s.ecgNext = .B) :
    s.startInPhase = false := by
  simp [State.startInPhase, ha, hn]

/-- The guard of the service, condition by condition (R93, R171). -/
theorem State.cchTriggered_iff (s : State) :
    s.cchTriggered = true ↔ s.hostInited = true ∧ s.cchEn = true ∧ s.latB = true := by
  simp [State.cchTriggered, and_assoc]

/-! ## The commands (R92, R94, R95, R96) -/

section Commands

variable {s : State}

theorem exec_cchStart_enabled (hi : s.hostInited = true) (hc : s.cchEn = true) :
    exec .cchStart s = .refused .startWhileEnabled := by
  simp [exec, execCchStart, afterInit_inited hi, hc]

theorem exec_cchStart_aligned (hi : s.hostInited = true) (hc : s.cchEn = false)
    (ha : s.cfg.startAligned = true) : exec .cchStart s = .refused .useXferGo := by
  simp [exec, execCchStart, afterInit_inited hi, hc, ha]

theorem exec_cchStart (hi : s.hostInited = true) (hc : s.cchEn = false)
    (ha : s.cfg.startAligned = false) : exec .cchStart s = .next { s with cchEn := true }.fgNext := by
  simp [exec, execCchStart, afterInit_inited hi, hc, ha]

theorem exec_latchClr_aligned (hi : s.hostInited = true) (ha : s.cfg.startAligned = true) :
    exec .latchClr s = .refused .useXferGo := by
  simp [exec, execLatchClr, afterInit_inited hi, ha]

theorem exec_latchClr (hi : s.hostInited = true) (ha : s.cfg.startAligned = false) :
    exec .latchClr s = .next { s with latA := false, latB := false }.fgNext := by
  simp [exec, execLatchClr, afterInit_inited hi, ha]

theorem exec_xferGo_enabled (hi : s.hostInited = true) (h : s.dchEn = true ∨ s.cchEn = true) :
    exec .xferGo s = .refused .startWhileEnabled := by
  simp [exec, execXferGo, afterInit_inited hi, s.channelEnabled_iff.2 h]

theorem exec_xferGo_done (hi : s.hostInited = true) (hd : s.dchEn = false) (hc : s.cchEn = false)
    (hdone : s.sigDone = true) : exec .xferGo s = .refused .completionNotAcknowledged := by
  simp [exec, execXferGo, afterInit_inited hi, State.channelEnabled_eq_false hd hc, hdone]

/-- Out of phase the joint start waits (R95). -/
theorem exec_xferGo_held (hi : s.hostInited = true) (hd : s.dchEn = false) (hc : s.cchEn = false)
    (hdone : s.sigDone = false) (hp : s.startInPhase = false) : exec .xferGo s = .next s := by
  simp [exec, execXferGo, afterInit_inited hi, State.channelEnabled_eq_false hd hc, hdone, hp]

theorem exec_xferDisable_enabled (hi : s.hostInited = true) (h : s.dchEn = true ∨ s.cchEn = true) :
    exec .xferDisable s = .refused .noAbortPath := by
  simp [exec, execXferDisable, afterInit_inited hi, s.channelEnabled_iff.2 h]

/-- To disable two disabled channels changes nothing (R96). -/
theorem State.disableBoth_eq (hd : s.dchEn = false) (hc : s.cchEn = false) :
    { s with dchEn := false, cchEn := false } = s := by
  cases s
  cases hd
  cases hc
  rfl

theorem exec_xferDisable (hi : s.hostInited = true) (hd : s.dchEn = false) (hc : s.cchEn = false) :
    exec .xferDisable s = .next s.fgNext := by
  simp only [exec, execXferDisable, afterInit_inited hi, State.channelEnabled_eq_false hd hc,
    State.disableBoth_eq hd hc, Bool.false_eq_true, if_false]

end Commands

/-- Settles O21: the refusals of R92 in order, and the start where none falls. -/
theorem cchStartEnablesTheChannel : Obligations.CchStartEnablesTheChannel :=
  ⟨hasRow_of_encode rfl, fun _ => ⟨fun hi => afterInit_before hi _, exec_cchStart_enabled,
    exec_cchStart_aligned, exec_cchStart⟩⟩

/-- Settles O23: the refusal of R94, and both latches cleared under no guard on the enables. -/
theorem latchClrClearsBothLatches : Obligations.LatchClrClearsBothLatches :=
  ⟨hasRow_of_encode rfl, fun _ => ⟨fun hi => afterInit_before hi _, exec_latchClr_aligned, exec_latchClr⟩⟩

/-- Settles O24: the refusals of R95 in order, then the phase decides between the start and the hold. -/
theorem xferGoStartsBothChannels : Obligations.XferGoStartsBothChannels :=
  ⟨hasRow_of_encode rfl, fun s => ⟨fun hi => afterInit_before hi _, exec_xferGo_enabled, exec_xferGo_done,
    fun hi hd hc hdone hphase => exec_xferGo hi hd hc hdone (s.startInPhase_iff.2 hphase),
    fun hi hd hc hdone ha hn => exec_xferGo_held hi hd hc hdone (State.startInPhase_eq_false ha hn)⟩⟩

/-- Settles O25: past the refusals of R96 both enables are 0 already. -/
theorem xferDisableChangesNothing : Obligations.XferDisableChangesNothing :=
  ⟨hasRow_of_encode rfl, fun _ => ⟨fun hi => afterInit_before hi _, exec_xferDisable_enabled,
    exec_xferDisable⟩⟩

/-! ## The service (R93, R111) -/

/-- The service written out field by field (R93); the `N`-th raises `SIG.DONE` (R111). -/
theorem State.serveClock_eq (s : State) :
    s.serveClock = { s with
      portOut := s.portOut ||| s.cfg.clkmask
      trace := s.trace ++ [⟨.C, s.cchIdx, s.portOut ||| s.cfg.clkmask⟩]
      latB := false
      cchIdx := nextIdx s.cfg.n s.cchIdx
      cchEn := decide (s.cchIdx + 1 ≠ s.cfg.n)
      sigDone := if s.cchIdx + 1 = s.cfg.n then true else s.sigDone } := by
  by_cases hlast : s.cchIdx + 1 = s.cfg.n <;>
    simp [State.serveClock, State.writePort, setSide, lastOfPass, hlast]

/-- Without its trigger the ClockChannel has no step (R93). -/
theorem exec_cchXfer_of_held {s : State} (h : ¬ s.cchTriggered = true) : exec .cchXfer s = .next s :=
  if_neg h

/-- Settles O22: a triggered service written out, and each way the trigger can fail. -/
theorem cchXferPulsesTheClock : Obligations.CchXferPulsesTheClock := by
  refine ⟨hasRow_of_encode rfl, fun s => ⟨fun hi hc hl => ?_, fun h => ?_⟩⟩
  · exact (exec_cchXfer hi hc hl).trans (congrArg _ s.serveClock_eq)
  · refine exec_cchXfer_of_held fun htrig => ?_
    obtain ⟨hi, hc, hl⟩ := s.cchTriggered_iff.1 htrig
    simp [hi, hc, hl] at h

end Sys2Proof.Machine
end
section
/-! PROOFS. The port (43_port_mux.md): its two write sides (R104), PORT.IDLE (R103), and what the strips receive
of a transfer (R105, R106). -/

namespace Sys2Proof.Machine

/-! ## The write sides and PORT.IDLE (R103, R104) -/

/-- Settles O27: the set side is the bitwise or, and the whole-word side forgets the old word. -/
theorem portSidesActLaneByLane : Obligations.PortSidesActLaneByLane :=
  fun _ _ _ _ => ⟨rfl, BitVec.getLsbD_or⟩

/-- Settles O26: past the check for INIT the write falls under no guard. -/
theorem portIdleDrivesTheIdleLevel : Obligations.PortIdleDrivesTheIdleLevel :=
  ⟨hasRow_of_encode rfl, fun _ => ⟨fun hi => afterInit_before hi _, exec_portIdle⟩⟩

/-! ## The clock line (R6, R52) -/

section ClockLine

variable {c : Config}

/-- The search for the clock line finds a line of the port whose bit of `CLKMASK` is set. -/
theorem clockLine_spec (h : ∃ i, i < 16 ∧ c.clkmask.getLsbD i = true) :
    clockLine c < 16 ∧ c.clkmask.getLsbD (clockLine c) = true := by
  obtain ⟨i, hi, hset⟩ := h
  have hlt : clockLine c < (List.range 16).length :=
    List.findIdx_lt_length_of_exists ⟨i, List.mem_range.2 hi, hset⟩
  have hfound : c.clkmask.getLsbD ((List.range 16)[clockLine c]) = true :=
    List.findIdx_getElem (p := fun i => c.clkmask.getLsbD i) (w := hlt)
  rw [List.getElem_range] at hfound
  exact ⟨by simpa using hlt, hfound⟩

/-- The clock line is the one line `CLKMASK` sets (R52). -/
theorem clkmask_getLsbD_eq_true_iff (hc : configValid c = true) {i : Nat} (hi : i < 16) :
    c.clkmask.getLsbD i = true ↔ i = clockLine c := by
  obtain ⟨-, -, honehot, -⟩ := (config_wf_iff c).1 hc
  have hline := clockLine_spec honehot.exists
  exact ⟨fun h => honehot.unique ⟨hi, h⟩ hline, fun h => h ▸ hline.2⟩

theorem clkmask_getLsbD_clockLine (hc : configValid c = true) :
    c.clkmask.getLsbD (clockLine c) = true := by
  obtain ⟨-, -, honehot, -⟩ := (config_wf_iff c).1 hc
  exact (clockLine_spec honehot.exists).2

theorem clkmask_getLsbD_of_ne (hc : configValid c = true) {i : Nat} (hi : i < 16) (hne : i ≠ clockLine c) :
    c.clkmask.getLsbD i = false :=
  Bool.eq_false_iff.2 fun h => hne ((clkmask_getLsbD_eq_true_iff hc hi).1 h)

/-- The idle level holds the clock line low (R6). -/
theorem idleLevel_getLsbD_clockLine (hc : configValid c = true) :
    c.idleLevel.getLsbD (clockLine c) = false := by
  obtain ⟨-, -, -, hidle⟩ := (config_wf_iff c).1 hc
  simpa [clkmask_getLsbD_clockLine hc] using congrArg (·.getLsbD (clockLine c)) hidle

end ClockLine

/-! ## The clock rises of a transfer (R105, R106) -/

section Rises

variable {line : Nat} {before : Word} {e : PortWrite} {es : List PortWrite}

/-- A write that leaves the clock line low is no clock rise, wherever the line was before it. -/
theorem clockRises_cons_low (h : e.value.getLsbD line = false) :
    clockRises line before (e :: es) = clockRises line e.value es := by
  simp [clockRises, h]

/-- A write that takes the clock line from low to high is a clock rise. -/
theorem clockRises_cons_rise (hb : before.getLsbD line = false) (h : e.value.getLsbD line = true) :
    clockRises line before (e :: es) = e.value :: clockRises line e.value es := by
  simp [clockRises, hb, h]

/-- A tick of a clean word makes one clock rise, at the pulse: the data write lowers the line first, so it
does not matter that the pulse before left the line high (R106). -/
theorem clockRises_tick {mask w : Word} {k : Nat} (hmask : mask.getLsbD line = true)
    (hw : w.getLsbD line = false) :
    clockRises line before (⟨.D, k, w⟩ :: ⟨.C, k, w ||| mask⟩ :: es) =
      (w ||| mask) :: clockRises line (w ||| mask) es := by
  rw [clockRises_cons_low hw, clockRises_cons_rise hw (by simp [hmask])]

/-- The clock rises of ticks of clean words and a last write that lowers the line are the pulses. -/
theorem clockRises_ticks {mask : Word} {ws : List Word} (hmask : mask.getLsbD line = true)
    (hclean : ∀ w ∈ ws, w.getLsbD line = false) (hlast : e.value.getLsbD line = false) (k : Nat) :
    clockRises line before (tickWrites mask k ws ++ [e]) = ws.map (· ||| mask) := by
  induction ws generalizing before k with
  | nil => exact clockRises_cons_low hlast
  | cons w ws ih =>
    obtain ⟨hw, hws⟩ := List.forall_mem_cons.1 hclean
    exact (clockRises_tick hmask hw).trans (congrArg _ (ih hws (k + 1)))

end Rises

/-- The clock rises of a clean transfer are its pulses `C_k`, in order (R105). -/
theorem clockRises_transferTrace {c : Config} {ws : List Word} (hc : configValid c = true)
    (hclean : ∀ w ∈ ws, w.getLsbD (clockLine c) = false) (before : Word) :
    clockRises (clockLine c) before (transferTrace c ws) = ws.map (· ||| c.clkmask) :=
  clockRises_ticks (clkmask_getLsbD_clockLine hc) hclean (idleLevel_getLsbD_clockLine hc) 0

/-- Settles O57: one rise for each word's pulse, and the pulse keeps every line but the clock's. -/
theorem cleanTransferIsReceived : Obligations.CleanTransferIsReceived := by
  intro c before ws hc _ hclean
  have hrises := clockRises_transferTrace hc hclean before
  refine ⟨by rw [hrises, List.length_map], fun i hi hne => ?_⟩
  simp [lineBits, hrises, clkmask_getLsbD_of_ne hc hi hne]

end Sys2Proof.Machine
end

section
/-! PROOFS. The completion signaler (44_completion_signaler.md): DONE.ACK (R112). -/

namespace Sys2Proof.Machine

/-- Settles O28: refused before INIT, and past it `exec_doneAck` gives the whole next state, whose only
other change is the handler's position. -/
theorem doneAckLowersTheSignal : Obligations.DoneAckLowersTheSignal :=
  ⟨hasRow_of_encode rfl, fun _ => ⟨fun hi => afterInit_before hi _, exec_doneAck⟩⟩

end Sys2Proof.Machine
end

section
/-! PROOFS. The host contract (45_transfer_gate.md): agents without an operation (R134, R147, R151), INIT
(R120), the operations on the gate (R121, R122, R125, R126, R130, R132) and the scrub (R124). -/

namespace Sys2Proof.Machine

/-! ## An agent without an operation (R134, R147, R151) -/

/-- The turn of an agent without a next word changes nothing but the list of turns. -/
theorem step_of_no_word {s : State} {a : Agent} {ts : List Turn} (hc : s.cfg.wf = true)
    (hp : s.programsOk = true) (ht : s.turns = .agent a :: ts) (hw : s.nextWord a = none) :
    step s = .next { s with turns := ts } := by
  simp only [step_of_turn hc hp ht, takeTurn, State.nextWord_turns, hw]

theorem State.nextWord_foreground_eq_none {s : State}
    (h : s.hostInh = true ∨ s.fgProg.length ≤ s.fgPos) : s.nextWord .foreground = none := by
  refine Option.eq_none_iff_forall_ne_some.2 fun w hw => ?_
  obtain ⟨hinh, hword⟩ := (s.nextWord_foreground w).1 hw
  obtain hrun | hover := h
  · simp [hinh] at hrun
  · simp [List.getElem?_eq_none hover] at hword

theorem State.nextWord_interrupt_eq_none {s : State} (hinh : s.hostInh = false)
    (h : s.ihProg[s.ihPos]? ≠ some (encode .irqEnter)) : s.nextWord .interrupt = none := by
  refine Option.eq_none_iff_forall_ne_some.2 fun w hw => ?_
  obtain ⟨hword, hrun | rfl⟩ := (s.nextWord_interrupt w).1 hw
  · simp [hinh] at hrun
  · exact h hword

/-- Settles O9: in each case the agent has no next word. -/
theorem agentWithoutOperationMakesNoStep : Obligations.AgentWithoutOperationMakesNoStep :=
  fun _ _ hc hp =>
    ⟨fun ht h => step_of_no_word hc hp ht (State.nextWord_foreground_eq_none h),
      fun ht hinh hw => step_of_no_word hc hp ht (State.nextWord_interrupt_eq_none hinh hw)⟩

/-! ## INIT (R120) -/

theorem exec_init_again {s : State} (hi : s.hostInited = true) :
    exec .init s = .refused .initTwice :=
  if_pos hi

theorem exec_init {s : State} (hi : s.hostInited = false) :
    exec .init s = .next s.initialised.fgNext :=
  if_neg (by simp [hi])

/-- Settles O29: the timestamp is the one drawn, and `State.initialised` writes the rest of R23's column. -/
theorem initSetsTheInitialState : Obligations.InitSetsTheInitialState :=
  ⟨hasRow_of_encode rfl, fun s => ⟨exec_init_again,
    fun hi => ⟨s.drawTimestamp, s.drawTimestamp_le, exec_init hi⟩⟩⟩

/-! ## The Active flag and the latch interval (R121, R122, R125, R126) -/

theorem exec_gateWaitIdle_held {s : State} (hi : s.hostInited = true) (ha : s.gateActive = true) :
    exec .gateWaitIdle s = .next s := by
  simp [exec, execGateWaitIdle, afterInit_inited hi, ha]

/-- Settles O30: the flag alone decides between the pass and the hold. -/
theorem gateWaitIdleTestsTheActiveFlag : Obligations.GateWaitIdleTestsTheActiveFlag :=
  ⟨hasRow_of_encode rfl, fun _ => ⟨fun hi => afterInit_before hi _, exec_gateWaitIdle,
    exec_gateWaitIdle_held⟩⟩

/-- Settles O31: past the check for INIT the flag is raised under no guard. -/
theorem gateSetActiveRaisesTheFlag : Obligations.GateSetActiveRaisesTheFlag :=
  ⟨hasRow_of_encode rfl, fun s => ⟨fun hi => afterInit_before hi _,
    fun hi => ⟨exec_gateSetActive hi, s.setActive_phase⟩⟩⟩

theorem State.phase_eq_idle {s : State} (ha : s.gateActive = false)
    (hl : s.cfg.tLatch ≤ s.now - s.gateCts) : s.phase = .idle :=
  s.phase_eq_idle_iff.2 ⟨ha, decide_eq_true hl⟩

theorem State.phase_ne_idle {s : State}
    (h : s.gateActive = true ∨ s.now - s.gateCts < s.cfg.tLatch) : s.phase ≠ .idle := by
  intro hidle
  obtain ⟨ha, hl⟩ := s.phase_eq_idle_iff.1 hidle
  obtain hactive | hlatching := h
  · simp [ha] at hactive
  · exact Nat.not_le_of_lt hlatching (of_decide_eq_true hl)

/-- Settles O34: the wait passes in the phase Idle and is held in the other two. -/
theorem gateWaitLatchWaitsOutTheInterval : Obligations.GateWaitLatchWaitsOutTheInterval :=
  ⟨hasRow_of_encode rfl, fun _ => ⟨fun hi => afterInit_before hi _,
    fun hi ha hl => exec_gateWaitLatch_of_idle hi (State.phase_eq_idle ha hl),
    fun hi h => exec_gateWaitLatch_of_not_idle hi (State.phase_ne_idle h)⟩⟩

/-- GATE.BUSY with its result known (R126). -/
theorem exec_gateBusy_of_result {s : State} {b : Bool} (hi : s.hostInited = true)
    (h : s.busyResult = b) :
    exec .gateBusy s = .next { s with busyResults := s.busyResults ++ [b] }.fgNext :=
  h ▸ exec_gateBusy hi

/-- Settles O35: the result is false in the phase Idle and true in the other two. -/
theorem gateBusyReturnsItsResult : Obligations.GateBusyReturnsItsResult :=
  ⟨hasRow_of_encode rfl, fun s => ⟨fun hi => afterInit_before hi _,
    fun hi h => exec_gateBusy_of_result hi
      (Bool.of_not_eq_false (mt s.busyResult_eq_false_iff.1 (State.phase_ne_idle h))),
    fun hi ha hl => exec_gateBusy_of_result hi
      (s.busyResult_eq_false_iff.2 (State.phase_eq_idle ha hl))⟩⟩

/-! ## The handler's operations on the gate (R130, R132) -/

/-- After INIT no operation but TS.RECORD writes the timestamp: INIT is the other writer. -/
theorem exec_keeps_gateCts {i : Instr} {s t : State} (hi : s.hostInited = true)
    (h : exec i s = .next t) (hne : i ≠ .tsRecord) : t.gateCts = s.gateCts := by
  by_contra hcts
  obtain ⟨-, hwriter⟩ := (exec_effect h).gate_writers (P := (· = i)) rfl
  obtain ⟨hrecord, -⟩ | rfl := hwriter hcts
  · exact hne hrecord.symm
  · rw [exec_init_again hi] at h
    cases h

/-- Settles O36: TS.RECORD written out, and the writers of the timestamp. -/
theorem tsRecordIsTheOnlyTimestampWriter : Obligations.TsRecordIsTheOnlyTimestampWriter :=
  ⟨hasRow_of_encode rfl, fun _ => ⟨fun hi => afterInit_before hi _, exec_tsRecord⟩,
    fun _ _ _ => exec_keeps_gateCts⟩

/-- A flag lowered at the recorded moment begins the latch interval. -/
theorem State.clearActive_phase {s : State} (hcts : s.gateCts = s.now) (hpos : 0 < s.cfg.tLatch) :
    s.clearActive.phase = .latching := by
  simp [State.phase, State.clearActive, hcts, hpos]

/-- Settles O37: past the check for INIT the flag is lowered under no guard. -/
theorem gateClrActiveLowersTheFlag : Obligations.GateClrActiveLowersTheFlag :=
  ⟨hasRow_of_encode rfl, fun _ => ⟨fun hi => afterInit_before hi _,
    fun hi => ⟨exec_gateClrActive hi, State.clearActive_phase⟩⟩⟩

/-! ## The scrub (R124) -/

section Scrub

variable {s t : State} {buf : Addr}

theorem exec_bufScrub_bad (hi : s.hostInited = true)
    (h : oddAddress buf = true ∨ pastTop s.cfg buf = true) :
    exec (.bufScrub buf) s = .refused .badBuffer := by
  simp [exec, execBufScrub, afterInit_inited hi, h]

theorem exec_bufScrub_skip (hi : s.hostInited = true) (ho : oddAddress buf = false)
    (hp : pastTop s.cfg buf = false) (hk : s.cfg.skipclr = true) :
    exec (.bufScrub buf) s = .next s.fgNext := by
  simp [exec, execBufScrub, afterInit_inited hi, ho, hp, hk]

theorem exec_bufScrub_words (hi : s.hostInited = true) (ho : oddAddress buf = false)
    (hp : pastTop s.cfg buf = false) (hk : s.cfg.skipclr = false) :
    exec (.bufScrub buf) s = .next (s.scrubWords buf.toNat s.cfg.n).fgNext := by
  simp [exec, execBufScrub, afterInit_inited hi, ho, hp, hk]

/-- A scrub that is not refused has skipped the buffer, or cleared it word by word. -/
theorem exec_bufScrub_cases (h : exec (.bufScrub buf) s = .next t) :
    (s.cfg.skipclr = true ∧ t = s.fgNext) ∨
      (s.cfg.skipclr = false ∧ t = (s.scrubWords buf.toNat s.cfg.n).fgNext) := by
  rw [exec, execBufScrub, afterInit_next] at h
  obtain ⟨-, h⟩ := h
  split_ifs at h with hbad hk
  · exact .inl ⟨hk, (Host.Outcome.next.inj h).symm⟩
  · exact .inr ⟨Bool.eq_false_iff.2 hk, (Host.Outcome.next.inj h).symm⟩

end Scrub

/-- A store to the word before the aligned words `as` records its race under theirs (R41). -/
theorem State.racedAfter_storeWord {s : State} {a : Nat} (w : Word) {as : List Nat} (hm : s.mem.wf)
    (heven : a % 2 = 0) (has : ∀ x ∈ as, a + 1 < x) :
    (s.storeWord a w).racedAfter as = s.racedAfter (as ++ [a]) := by
  have hold : ∀ x ∈ as, (x, (s.storeWord a w).readWord x) = (x, s.readWord x) := fun x hx =>
    congrArg (Prod.mk x) (Memory.readWord_writeWord_of_ne _ _ _ _ _ hm (.inr (has x hx)))
  cases hd : s.dchEn with
  | false => simp [State.racedAfter, hd]
  | true => simp [State.racedAfter, wordsTouched, hd, heven, List.map_congr_left hold]

/-- The scrub records a race for every word of the buffer, the last word first. -/
theorem State.scrubWords_racedAfter (s : State) (a n : Nat) (hm : s.mem.wf) (heven : a % 2 = 0) :
    (s.scrubWords a n).raced = s.racedAfter ((List.range n).map (fun k => a + 2 * k)).reverse := by
  induction n generalizing s a with
  | zero => simp [State.scrubWords, State.racedAfter]
  | succ n ih =>
    have hlist : ((List.range (n + 1)).map (fun k => a + 2 * k)).reverse =
        ((List.range n).map (fun k => a + 2 + 2 * k)).reverse ++ [a] := by
      have hnext (k : Nat) : a + 2 * (k + 1) = a + 2 + 2 * k := by omega
      simp [List.range_succ_eq_map, Function.comp_def, hnext]
    rw [State.scrubWords, ih (s.storeWord a _) _ (Memory.writeWord_wf _ _ _ _ hm) (by omega), hlist]
    refine State.racedAfter_storeWord _ hm heven fun x hx => ?_
    obtain ⟨k, -, rfl⟩ := List.mem_map.1 (List.mem_reverse.1 hx)
    omega

/-- A word holds its two bytes (R34). -/
theorem joinBytes_inj {o : ByteOrder} {b0 b1 c0 c1 : Byte} (h : joinBytes o b0 b1 = joinBytes o c0 c1) :
    b0 = c0 ∧ b1 = c1 := by
  have happend {x y x' y' : Byte} (he : x ++ y = x' ++ y') : x = x' ∧ y = y' :=
    ⟨by rw [← BitVec.extractLsb'_append_eq_left (a := x), he, BitVec.extractLsb'_append_eq_left],
      by rw [← BitVec.extractLsb'_append_eq_right (b := y), he, BitVec.extractLsb'_append_eq_right]⟩
  cases o with
  | little => exact (happend h).symm
  | big => exact happend h

/-- Two canonical memories with the same words in a range and the same bytes outside it are the same. -/
theorem Memory.eq_of_readWord {o : ByteOrder} {m m' : Memory} (hm : m.wf) (hm' : m'.wf) (a n : Nat)
    (hout : ∀ x, x < a ∨ a + 2 * n ≤ x → m.readByte x = m'.readByte x)
    (hword : ∀ k, k < n → m.readWord o (a + 2 * k) = m'.readWord o (a + 2 * k)) : m = m' := by
  refine Memory.eq_of_readByte m m' hm hm' fun x => ?_
  by_cases hx : x < a ∨ a + 2 * n ≤ x
  · exact hout x hx
  · obtain ⟨hlow, hhigh⟩ := joinBytes_inj (hword ((x - a) / 2) (by omega))
    obtain heven | hodd : x = a + 2 * ((x - a) / 2) ∨ x = a + 2 * ((x - a) / 2) + 1 := by omega
    · rwa [← heven] at hlow
    · rwa [← hodd] at hhigh

/-- Clock bits that are clear stay as they are, so a second scrub leaves memory the same (R124 (c)). -/
theorem State.scrubWords_twice_mem {s t : State} (a n : Nat) (hm : s.mem.wf) (hcfg : t.cfg = s.cfg)
    (hmem : t.mem = (s.scrubWords a n).mem) : (t.scrubWords a n).mem = t.mem := by
  have htm : t.mem.wf := hmem ▸ s.scrubWords_memWf a n hm
  refine Memory.eq_of_readWord (o := t.cfg.byteOrder) (t.scrubWords_memWf a n htm) htm a n
    (fun x hx => t.readByte_scrubWords a n x htm hx) fun k hk => ?_
  have hagain := t.readWord_scrubWords a n k htm hk
  have hfirst : t.readWord (a + 2 * k) = s.readWord (a + 2 * k) &&& ~~~s.cfg.clkmask := by
    rw [← s.readWord_scrubWords a n k hm hk, State.readWord, State.readWord, hmem, hcfg,
      State.scrubWords_cfg]
  rw [hfirst, hcfg, BitVec.and_assoc, BitVec.and_self, ← hfirst] at hagain
  simpa only [State.readWord, State.scrubWords_cfg] using hagain

/-- Settles O32: the refusals and the skip of R124; the scrub word by word; and the second scrub, which is
skipped like the first or finds the clock bits clear. -/
theorem bufScrubClearsTheClockBits : Obligations.BufScrubClearsTheClockBits := by
  refine ⟨fun s buf => ⟨hasRow_of_encode rfl, fun hi => afterInit_before hi _, fun hi hbad => ?_,
    fun hi heven htop hk => ?_, fun hi heven htop hk hm => ?_⟩, fun s t u buf hm ht hu => ?_⟩
  · exact exec_bufScrub_bad hi (hbad.imp (oddAddress_iff buf).2 (pastTop_iff _ buf).2)
  · exact exec_bufScrub_skip hi ((oddAddress_eq_false_iff buf).2 heven)
      ((pastTop_eq_false_iff _ buf).2 htop) hk
  · refine ⟨_, exec_bufScrub_words hi ((oddAddress_eq_false_iff buf).2 heven)
      ((pastTop_eq_false_iff _ buf).2 htop) hk, fun k hk => ?_, fun x hx => ?_, ?_, ?_, ?_⟩
    · exact s.readWord_scrubWords _ _ _ hm hk
    · exact s.readByte_scrubWords _ _ _ hm hx
    · exact s.scrubWords_memWf _ _ hm
    · exact s.scrubWords_racedAfter _ _ hm heven
    · exact congrArg State.fgNext (s.scrubWords_eta _ _)
  · obtain ⟨hk, rfl⟩ | ⟨hk, rfl⟩ := exec_bufScrub_cases ht
    · obtain ⟨-, rfl⟩ | ⟨hk', -⟩ := exec_bufScrub_cases hu
      · rfl
      · cases hk.symm.trans hk'
    · obtain ⟨-, rfl⟩ | ⟨-, rfl⟩ := exec_bufScrub_cases hu
      · rfl
      · have htwice := State.scrubWords_twice_mem (t := (s.scrubWords buf.toNat s.cfg.n).fgNext)
          buf.toNat s.cfg.n hm (s.scrubWords_cfg _ _) rfl
        simpa using htwice

end Sys2Proof.Machine
end

section
/-! PROOFS. A `show` returns (45_transfer_gate.md R127, R133): the foreground's five operations up to the
start, the ticks of the transfer, the handler, and the last wait, one run after another. -/

namespace Sys2Proof.Machine

/-! ## The operations of the host on their turns (R9) -/

/-- An agent's turn performs its next operation, whatever the turns after it. -/
theorem step_hostOp {s t : State} {a : Agent} {i : Instr} {ts : List Turn} (hc : s.cfg.wf = true)
    (hp : s.programsOk = true) (ha : i.agent = a) (hw : s.nextWord a = some (encode i))
    (hx : exec i (s.onTurns ts) = .next (t.onTurns ts)) :
    step (s.onTurns (.agent a :: ts)) = .next (t.onTurns ts) := by
  rw [step_of_turn (s := s.onTurns (.agent a :: ts)) hc hp rfl]
  exact (takeTurn_of_nextWord ((s.nextWord_turns ts a).trans hw) (decode_encode i) ha).trans hx

/-! ## The handler (R147) -/

/-- Six turns of the interrupt context run the handler of R147 on a pending completion. -/
theorem runs_handler {s : State} (hc : s.cfg.wf = true) (hp : s.programsOk = true)
    (hi : s.hostInited = true) (hdone : s.sigDone = true) (hinh : s.hostInh = false)
    (hprog : s.ihProg = assemble (Macro.expand .handler)) (hpos : s.ihPos = 0) (ts : List Turn) :
    Runs 6 (s.onTurns (List.replicate 6 (.agent .interrupt) ++ ts))
      ((s.handled s.now).onTurns ts) := by
  have hat (k : Nat) {i : Instr} (h : (Macro.expand .handler)[k]? = some i) :
      s.ihProg[s.ihPos + k]? = some (encode i) := by
    rw [hprog, hpos, Nat.zero_add, assemble_getElem?, h]
  have hword (k cts : Nat) {i : Instr} (h : (Macro.expand .handler)[k]? = some i) :
      (s.inHandler k cts).nextWord .interrupt = some (encode i) :=
    (State.nextWord_interrupt _ _).2 ⟨hat k h, .inl rfl⟩
  have hentry : s.nextWord .interrupt = some (encode .irqEnter) :=
    (State.nextWord_interrupt _ _).2 ⟨hat 0 rfl, .inr rfl⟩
  have hlast : (s.inHandler 5 s.now).ihPos + 1 = (s.inHandler 5 s.now).ihProg.length := by
    show s.ihPos + 5 + 1 = s.ihProg.length
    rw [hprog, hpos]
    rfl
  exact
    .succ (step_hostOp (t := s.inHandler 1 0) hc hp rfl hentry (exec_irqEnter hi hdone hinh))
    (.succ (step_hostOp (t := s.inHandler 2 0) hc hp rfl (hword 1 0 rfl) (exec_doneAck hi))
    (.succ (step_hostOp (t := s.inHandler 3 0) hc hp rfl (hword 2 0 rfl) (exec_portIdle hi))
    (.succ (step_hostOp (t := s.inHandler 4 s.now) hc hp rfl (hword 3 0 rfl) (exec_tsRecord hi))
    (.succ (step_hostOp (t := s.inHandler 5 s.now) hc hp rfl (hword 4 s.now rfl) (exec_gateClrActive hi))
    (.succ (step_hostOp (t := s.handled s.now) hc hp rfl (hword 5 s.now rfl) (exec_irqExit hi rfl hlast))
    (.zero _))))))

/-! ## The last wait (R125, R133) -/

/-- The turn of time moves `NOW` (R153). -/
theorem step_time {s : State} (hc : s.cfg.wf = true) (hp : s.programsOk = true) (d : Nat)
    (ts : List Turn) :
    step (s.onTurns (.time d :: ts)) = .next ({ s with now := s.now + d }.onTurns ts) :=
  step_of_turn (s := s.onTurns (.time d :: ts)) hc hp rfl

/-- Once `T_LATCH` has passed since the timestamp, the foreground passes GATE.WAITLATCH. -/
theorem runs_lastWait {s : State} (hc : s.cfg.wf = true) (hp : s.programsOk = true)
    (hi : s.hostInited = true) (ha : s.gateActive = false) (hcts : s.gateCts ≤ s.now)
    (hw : s.nextWord .foreground = some (encode .gateWaitLatch)) (ts : List Turn) :
    Runs 2 (s.onTurns (.time s.cfg.tLatch :: .agent .foreground :: ts))
      ({ s with now := s.now + s.cfg.tLatch }.fgNext.onTurns ts) := by
  have helapsed : s.cfg.tLatch ≤ s.now + s.cfg.tLatch - s.gateCts := by omega
  have hwait : step (State.onTurns { s with now := s.now + s.cfg.tLatch } (.agent .foreground :: ts)) =
      .next ({ s with now := s.now + s.cfg.tLatch }.fgNext.onTurns ts) :=
    step_hostOp (i := .gateWaitLatch) hc hp rfl hw
      (exec_gateWaitLatch hi ha (decide_eq_true helapsed))
  exact .succ (step_time hc hp _ _) (.succ hwait (.zero _))

/-! ## The scrub of a show (R124) -/

/-- The memory with the clock bits of `n` words from `a` upwards cleared. -/
def Memory.scrub (o : ByteOrder) (mask : Word) (m : Memory) (a : Nat) : Nat → Memory
  | 0 => m
  | n + 1 => Memory.scrub o mask (m.writeWord o a (m.readWord o a &&& ~~~mask)) (a + 2) n

theorem State.scrubWords_mem (s : State) (a n : Nat) :
    (s.scrubWords a n).mem = s.mem.scrub s.cfg.byteOrder s.cfg.clkmask a n := by
  induction n generalizing s a with
  | zero => rfl
  | succ n ih => exact ih _ _

/-- What the scrub leaves of a buffer while no race is recorded: only memory can change. -/
def State.scrubbed (s : State) (buf : Addr) : State :=
  { s with
    mem := if s.cfg.skipclr then s.mem
      else s.mem.scrub s.cfg.byteOrder s.cfg.clkmask buf.toNat s.cfg.n }

/-- With the DataChannel disabled the scrub of an admitted buffer records no race. -/
theorem exec_bufScrub_disabled {s : State} {buf : Addr} (hi : s.hostInited = true)
    (hd : s.dchEn = false) (ho : oddAddress buf = false) (hp : pastTop s.cfg buf = false) :
    exec (.bufScrub buf) s = .next (s.scrubbed buf).fgNext := by
  cases hk : s.cfg.skipclr with
  | true =>
    rw [exec_bufScrub_skip hi ho hp hk, State.scrubbed, hk]
    rfl
  | false =>
    rw [exec_bufScrub_words hi ho hp hk, State.scrubWords_eta, s.scrubWords_raced _ _ hd,
      s.scrubWords_mem, State.scrubbed, hk]
    rfl

theorem State.scrubbed_mem_of_skip (s : State) (buf : Addr) (hk : s.cfg.skipclr = true) :
    (s.scrubbed buf).mem = s.mem :=
  if_pos hk

theorem State.bufferWords_scrubbed (s : State) (buf : Addr) (hm : s.mem.wf)
    (hk : s.cfg.skipclr = false) :
    (s.scrubbed buf).bufferWords buf.toNat =
      (s.bufferWords buf.toNat).map (fun w => w &&& ~~~s.cfg.clkmask) := by
  have hmem : (s.scrubbed buf).mem = (s.scrubWords buf.toNat s.cfg.n).mem := by
    rw [s.scrubWords_mem, State.scrubbed, hk]
    rfl
  rw [State.bufferWords, State.bufferWords, List.map_map]
  refine List.map_congr_left fun k hk => ?_
  have hword := s.readWord_scrubWords buf.toNat s.cfg.n k hm (List.mem_range.1 hk)
  rwa [State.readWord, ← hmem, State.scrubWords_cfg] at hword

/-! ## The states a show passes through (R127) -/

/-- A show of `buf` is the next thing to happen: no transfer in flight, the generator before an edge A, and
the buffer admitted and declared (R127). -/
structure State.ShowReady (s : State) (buf : Addr) : Prop where
  cfgWf : s.cfg.wf = true
  programsOk : s.programsOk = true
  inited : s.hostInited = true
  running : s.ecgRun = true
  next : s.ecgNext = .A
  dchOff : s.dchEn = false
  cchOff : s.cchEn = false
  cchIdx : s.cchIdx = 0
  noDone : s.sigDone = false
  inactive : s.gateActive = false
  noHandler : s.hostInh = false
  noRace : s.raced = []
  handler : s.ihProg = assemble (Macro.expand .handler)
  handlerPos : s.ihPos = 0
  words : ∀ k i, (Macro.expand (.showBuf buf))[k]? = some i → s.fgProg[s.fgPos + k]? = some (encode i)
  even : oddAddress buf = false
  fits : pastTop s.cfg buf = false
  owned : s.ownsBuffer buf.toNat = true

/-- The state in which XFER.GO leaves a show: the buffer scrubbed and bound, the latches clear. -/
def State.launched (s : State) (buf : Addr) : State :=
  { s with
    mem := (s.scrubbed buf).mem, fgPos := s.fgPos + 5, gateActive := true
    dchSrc := buf, dchArmed := true, dchIdx := 0
    latA := false, latB := false, dchEn := true, cchEn := true }

/-- The state after the ticks of a show, `last` the last word sent. -/
def State.flown (s : State) (buf : Addr) (last : Word) : State :=
  { s.launched buf with
    portOut := last ||| s.cfg.clkmask
    trace := s.trace ++ tickWrites s.cfg.clkmask 0 ((s.scrubbed buf).bufferWords buf.toNat)
    dchEn := false, cchEn := false, sigDone := true }

/-- The state in which a show returns, once `T_LATCH` has passed since its handler. -/
def State.shown (s : State) (buf : Addr) : State :=
  { s.launched buf with
    portOut := s.cfg.idleLevel
    trace := s.trace ++ tickWrites s.cfg.clkmask 0 ((s.scrubbed buf).bufferWords buf.toNat) ++
      [⟨.I, 0, s.cfg.idleLevel⟩]
    dchEn := false, cchEn := false, sigDone := false
    gateActive := false, gateCts := s.now, now := s.now + s.cfg.tLatch
    hostInh := false, ihPos := 0, fgPos := s.fgPos + 6 }

theorem State.handled_flown (s : State) (buf : Addr) (last : Word) :
    { (s.flown buf last).handled s.now with now := s.now + s.cfg.tLatch }.fgNext = s.shown buf := rfl

section Show

variable {s : State} {buf : Addr} (h : s.ShowReady buf) (ts : List Turn)

include h

/-- Where the foreground stands at operation `k` of the show, that is its next operation. -/
theorem State.ShowReady.nextWord {u : State} (k : Nat) {i : Instr}
    (hi : (Macro.expand (.showBuf buf))[k]? = some i) (hinh : u.hostInh = false)
    (hprog : u.fgProg = s.fgProg) (hpos : u.fgPos = s.fgPos + k) :
    u.nextWord .foreground = some (encode i) :=
  (State.nextWord_foreground _ _).2 ⟨hinh, by rw [hprog, hpos, h.words k i hi]⟩

/-- Five turns of the foreground start the transfer. -/
theorem State.ShowReady.runs_start :
    Runs 5 (s.onTurns (List.replicate 5 (.agent .foreground) ++ ts))
      ((s.launched buf).onTurns ts) := by
  have hc := h.cfgWf
  have hp := h.programsOk
  have hi := h.inited
  have hphase : s.startInPhase = true := s.startInPhase_iff.2 (.inr h.next)
  exact
    .succ (step_hostOp (t := s.fgNext) hc hp rfl (h.nextWord 0 rfl h.noHandler rfl rfl)
      (exec_gateWaitIdle hi h.inactive))
    (.succ (step_hostOp (t := s.inShow 2) hc hp rfl (h.nextWord 1 rfl h.noHandler rfl rfl)
      (exec_gateSetActive hi))
    (.succ (step_hostOp (t := (s.scrubbed buf).inShow 3) hc hp rfl (h.nextWord 2 rfl h.noHandler rfl rfl)
      (exec_bufScrub_disabled hi h.dchOff h.even h.fits))
    (.succ (step_hostOp (t := (s.scrubbed buf).showArmed buf) hc hp rfl
      (h.nextWord 3 rfl h.noHandler rfl rfl) (exec_dchArm hi h.dchOff h.cchOff h.even h.fits))
    (.succ (step_hostOp (t := s.launched buf) hc hp rfl (h.nextWord 4 rfl h.noHandler rfl rfl)
      (exec_xferGo hi h.dchOff h.cchOff h.noDone hphase))
    (.zero _)))))

/-- The ticks send the words the scrub has left. -/
theorem State.ShowReady.runs_transfer :
    ∃ last, Runs (4 * s.cfg.n) ((s.launched buf).onTurns (ticksTurns s.cfg.n ++ ts))
      ((s.flown buf last).onTurns ts) := by
  obtain ⟨last, -, hrun⟩ := transferSendsEveryWord
    ((s.launched buf).onTurns (ticksTurns s.cfg.n ++ ts)) ts h.cfgWf h.programsOk h.inited h.running
    h.next rfl rfl rfl rfl rfl h.cchIdx rfl h.owned h.noRace rfl
  exact ⟨last, hrun⟩

/-- The handler runs, `T_LATCH` passes, and the foreground passes the last wait. -/
theorem State.ShowReady.runs_return (last : Word) :
    Runs (6 + 2) ((s.flown buf last).onTurns (List.replicate 6 (.agent .interrupt) ++
      (.time s.cfg.tLatch :: .agent .foreground :: ts))) ((s.shown buf).onTurns ts) := by
  have hhandler := runs_handler (s := s.flown buf last) h.cfgWf h.programsOk h.inited rfl h.noHandler
    h.handler h.handlerPos (.time s.cfg.tLatch :: .agent .foreground :: ts)
  have hwait := runs_lastWait (s := (s.flown buf last).handled s.now) h.cfgWf h.programsOk h.inited rfl
    le_rfl (h.nextWord 5 rfl rfl rfl rfl) ts
  exact hhandler.add hwait

/-- A show runs to its return. -/
theorem State.ShowReady.runs :
    Runs (5 + 4 * s.cfg.n + 6 + 2) (s.onTurns (List.replicate 5 (.agent .foreground) ++
      ticksTurns s.cfg.n ++ List.replicate 6 (.agent .interrupt) ++
      [.time s.cfg.tLatch, .agent .foreground] ++ ts)) ((s.shown buf).onTurns ts) := by
  obtain ⟨last, htransfer⟩ := h.runs_transfer
    (List.replicate 6 (.agent .interrupt) ++ (.time s.cfg.tLatch :: .agent .foreground :: ts))
  have hrun := ((h.runs_start _).add htransfer).add (h.runs_return ts last)
  simpa only [List.append_assoc, List.cons_append, List.nil_append] using hrun

end Show

/-- Settles O55: the runs of the show's parts, and the postconditions read off the state it returns in. -/
theorem showReturnsIdle : Obligations.ShowReturnsIdle := by
  intro s buf before after ts hc hp hi hm hr hn hd hcch hdi hci hdone hact hinh hrace hprog hpos hfg
    hfgpos heven htop hown ht
  have hready : s.ShowReady buf :=
    ⟨hc, hp, hi, hr, hn, hd, hcch, hci, hdone, hact, hinh, hrace, hprog, hpos, show_words hfg hfgpos,
      (oddAddress_eq_false_iff buf).2 heven, (pastTop_eq_false_iff _ buf).2 htop, hown⟩
  have hrun := hready.runs ts
  rw [← ht] at hrun
  have helapsed : s.cfg.tLatch ≤ s.now + s.cfg.tLatch - s.now := by omega
  exact ⟨(s.shown buf).onTurns ts, hrun, rfl, rfl, rfl, hci, rfl, rfl, rfl, helapsed,
    State.phase_eq_idle rfl helapsed, rfl, rfl, rfl, List.append_assoc _ _ _,
    s.scrubbed_mem_of_skip buf, s.bufferWords_scrubbed buf hm⟩

end Sys2Proof.Machine
end

section
/-! PROOFS. The exceptions family (60_exceptions.md): the passage of time (R153), an operation issued by another
agent (R151), entry to and return from the completion interrupt (R146, R148), and the handler with and without
DONE.ACK (R147, R149). -/

namespace Sys2Proof.Machine

/-! ## The passage of time (R153, R21) -/

section Time

variable {s t : State}

@[simp] theorem State.afterTurn_now (s : State) : s.afterTurn.now = s.now := by
  rw [s.afterTurn_eta]

/-- No step lets `NOW` fall: an operation leaves it, and no other turn lowers it. -/
theorem step_now_le (h : step s = .next t) : s.now ≤ t.now := by
  obtain ⟨-, -, hturn⟩ := step_effect h
  rw [← s.afterTurn_now]
  cases hturn.move with
  | outside now mem owned raced hnow ht => exact ht ▸ hnow
  | act i hagent hw hx => exact (exec_effect hx).now.ge

/-- A step that performs an operation leaves `NOW` as it is. -/
theorem State.Performs.now_eq {i : Instr} (hp : s.Performs i) (h : step s = .next t) : t.now = s.now :=
  (exec_effect (hp.exec_eq h)).now.trans s.afterTurn_now

end Time

/-- Settles O12: the turn of time written out, and every step by its effect on `NOW`. -/
theorem timeOnlyGrows : Obligations.TimeOnlyGrows :=
  ⟨fun _ _ _ hc hp ht => step_of_turn hc hp ht, fun _ _ h => ⟨step_now_le h, fun _ hp => hp.now_eq h⟩⟩

/-! ## An operation of another agent (R151) -/

/-- The turn of an agent whose next word is another agent's operation is refused. -/
theorem step_of_foreign_word {s : State} {a : Agent} {w : OpWord} {i : Instr} {ts : List Turn}
    (hc : s.cfg.wf = true) (hp : s.programsOk = true) (ht : s.turns = .agent a :: ts)
    (hw : s.nextWord a = some w) (hd : decode w = some i) (ha : i.agent ≠ a) :
    step s = .refused .wrongAgent := by
  simp only [step_of_turn hc hp ht, takeTurn, State.nextWord_turns, hw, performWord, hd, if_neg ha]

/-- Settles O8: the foreground outside the handler, and the handler while it runs, fetch the word they stand
at. -/
theorem operationOfAnotherAgentIsRefused : Obligations.OperationOfAnotherAgentIsRefused :=
  fun s _ w _ hc hp hd =>
    ⟨fun ht hinh hw => step_of_foreign_word hc hp ht ((s.nextWord_foreground w).2 ⟨hinh, hw⟩) hd,
      fun ht hinh hw => step_of_foreign_word hc hp ht ((s.nextWord_interrupt w).2 ⟨hw, .inl hinh⟩) hd⟩

/-! ## Entry and return (R146, R148) -/

section Interrupt

variable {s : State}

/-- Without a pending completion, or in the running handler, there is no entry (R146). -/
theorem exec_irqEnter_held (hi : s.hostInited = true) (h : s.sigDone = false ∨ s.hostInh = true) :
    exec .irqEnter s = .next s := by
  obtain hdone | hinh := h
  · simp [exec, execIrqEnter, afterInit_inited hi, State.interruptEnabled, hdone]
  · simp [exec, execIrqEnter, afterInit_inited hi, State.interruptEnabled, hinh]

/-- Outside the handler, or before its last word, the return is held (R148). -/
theorem exec_irqExit_held (hi : s.hostInited = true)
    (h : s.hostInh = false ∨ s.ihPos + 1 ≠ s.ihProg.length) : exec .irqExit s = .next s := by
  obtain hinh | hleft := h
  · simp [exec, execIrqExit, afterInit_inited hi, hinh]
  · simp [exec, execIrqExit, afterInit_inited hi, State.handlerDone, hleft]

end Interrupt

/-- Settles O39: the entry under its guard, and each way the guard can fail. -/
theorem irqEnterTakesTheInterrupt : Obligations.IrqEnterTakesTheInterrupt :=
  ⟨hasRow_of_encode rfl, fun _ => ⟨fun hi => afterInit_before hi _, exec_irqEnter, exec_irqEnter_held⟩⟩

/-- Settles O40: the return under its guard, and each way the guard can fail. -/
theorem irqExitReturnsFromTheInterrupt : Obligations.IrqExitReturnsFromTheInterrupt :=
  ⟨hasRow_of_encode rfl, fun _ => ⟨fun hi => afterInit_before hi _, exec_irqExit, exec_irqExit_held⟩⟩

/-! ## The handler of R147 -/

/-- Entry and return undo each other: outside the handler its run leaves `HOST.INH` and the handler's position
as they were. -/
theorem State.handled_of_outside {s : State} (hinh : s.hostInh = false) (hpos : s.ihPos = 0) (cts : Nat) :
    s.handled cts = { s with
      sigDone := false, portOut := s.cfg.idleLevel
      trace := s.trace ++ [⟨.I, 0, s.cfg.idleLevel⟩]
      gateCts := cts, gateActive := false } := by
  simp only [State.handled, hinh, hpos]

/-- Settles O41: the run of the handler, its end state written out. -/
theorem handlerRunsItsFourSteps : Obligations.HandlerRunsItsFourSteps := by
  intro s ts hc hp hi hdone hinh hprog hpos ht
  have hrun := runs_handler hc hp hi hdone hinh hprog hpos ts
  rw [← ht, State.handled_of_outside hinh hpos] at hrun
  exact hrun

/-! ## A handler without DONE.ACK (R149) -/

/-- The handler of program P6: the one of R147 without its DONE.ACK (R149). -/
def handlerWithoutAck : List Instr := [.irqEnter, .portIdle, .tsRecord, .gateClrActive, .irqExit]

/-- The state with `k` steps of the handler of program P6 done, `GATE.CTS` recorded as `cts`: that of the handler
of R147 one step on, but for `SIG.DONE`. -/
def State.inHandlerWithoutAck (s : State) (k cts : Nat) : State :=
  { s.inHandler (k + 1) cts with ihPos := s.ihPos + k, sigDone := s.sigDone }

/-- The state after the return from the handler of program P6: `SIG.DONE` is not acknowledged. -/
def State.handledWithoutAck (s : State) (cts : Nat) : State :=
  { s.handled cts with sigDone := s.sigDone }

/-- Five turns of the interrupt context run the handler of program P6 on a pending completion. -/
theorem runs_handlerWithoutAck {s : State} (hc : s.cfg.wf = true) (hp : s.programsOk = true)
    (hi : s.hostInited = true) (hdone : s.sigDone = true) (hinh : s.hostInh = false)
    (hprog : s.ihProg = assemble handlerWithoutAck) (hpos : s.ihPos = 0) (ts : List Turn) :
    Runs 5 (s.onTurns (List.replicate 5 (.agent .interrupt) ++ ts))
      ((s.handledWithoutAck s.now).onTurns ts) := by
  have hat (k : Nat) {i : Instr} (h : handlerWithoutAck[k]? = some i) :
      s.ihProg[s.ihPos + k]? = some (encode i) := by
    rw [hprog, hpos, Nat.zero_add, assemble_getElem?, h]
  have hword (k cts : Nat) {i : Instr} (h : handlerWithoutAck[k]? = some i) :
      (s.inHandlerWithoutAck k cts).nextWord .interrupt = some (encode i) :=
    (State.nextWord_interrupt _ _).2 ⟨hat k h, .inl rfl⟩
  have hentry : s.nextWord .interrupt = some (encode .irqEnter) :=
    (State.nextWord_interrupt _ _).2 ⟨hat 0 rfl, .inr rfl⟩
  have hlast : s.ihPos + 4 + 1 = s.ihProg.length := by
    rw [hpos, hprog]
    rfl
  exact
    .succ (step_hostOp (t := s.inHandlerWithoutAck 1 0) hc hp rfl hentry (exec_irqEnter hi hdone hinh))
    (.succ (step_hostOp (t := s.inHandlerWithoutAck 2 0) hc hp rfl (hword 1 0 rfl) (exec_portIdle hi))
    (.succ (step_hostOp (t := s.inHandlerWithoutAck 3 s.now) hc hp rfl (hword 2 0 rfl) (exec_tsRecord hi))
    (.succ (step_hostOp (t := s.inHandlerWithoutAck 4 s.now) hc hp rfl (hword 3 s.now rfl)
      (exec_gateClrActive hi))
    (.succ (step_hostOp (t := s.handledWithoutAck s.now) hc hp rfl (hword 4 s.now rfl)
      (exec_irqExit hi rfl hlast))
    (.zero _)))))

/-- Settles O42: after the run the completion is still pending, so the entry is enabled and XFER.GO meets its
refusal. -/
theorem handlerWithoutAckIsEnteredAgain : Obligations.HandlerWithoutAckIsEnteredAgain := by
  intro s ts hc hp hi hdone hinh hd hcch hprog hpos ht
  have hrun := runs_handlerWithoutAck hc hp hi hdone hinh hprog hpos ts
  rw [← ht] at hrun
  exact ⟨(s.handledWithoutAck s.now).onTurns ts, hrun, rfl, rfl, hdone, exec_irqEnter hi hdone rfl,
    exec_xferGo_done hi hd hcch hdone⟩

end Sys2Proof.Machine
end

section
/-! PROOFS. Reset and hazards (70_reset_and_hazards.md): nothing runs before INIT (R171), and a word that is not
clean merges pulses (R180). -/

namespace Sys2Proof.Machine

/-! ## Before INIT (R171) -/

section BeforeInit

variable {i : Instr} {s : State}

/-- An operation of the host other than INIT stands behind the check for INIT. -/
theorem exec_host_eq_afterInit (hev : i.opClass ≠ .ev) (hinit : i ≠ .init) (s : State) :
    ∃ answer, exec i s = afterInit s answer := by
  cases i with
  | init => exact absurd rfl hinit
  | edgeA | edgeB | dchXfer | cchXfer => exact absurd rfl hev
  | _ => exact ⟨_, rfl⟩

/-- An event of the hardware is held before INIT: the guard of an edge and the trigger of a channel ask for it. -/
theorem exec_event_before (hev : i.opClass = .ev) (h : s.hostInited = false) : exec i s = .next s := by
  have hnot : s.hostInited ≠ true := by simp [h]
  cases i with
  | edgeA => exact exec_edgeEvent_of_held (e := .A) (.inl h)
  | edgeB => exact exec_edgeEvent_of_held (e := .B) (.inl h)
  | dchXfer => exact exec_dchXfer_of_held fun ⟨htrig, _⟩ => hnot (s.dchTriggered_iff.1 htrig).1
  | cchXfer => exact exec_cchXfer_of_held fun htrig => hnot (s.cchTriggered_iff.1 htrig).1
  | _ => cases hev

end BeforeInit

/-- Settles O43: the host's operations by their check for INIT, the events by their guards. -/
theorem nothingRunsBeforeInit : Obligations.NothingRunsBeforeInit := by
  refine fun i s h => ⟨fun hev hinit => ?_, fun hev => exec_event_before hev h⟩
  obtain ⟨answer, hexec⟩ := exec_host_eq_afterInit hev hinit s
  exact hexec.trans (afterInit_before h answer)

/-! ## A word with the clock bit set (R180) -/

/-- A write on a high clock line is no clock rise, whatever it writes (R105). -/
theorem clockRises_cons_of_high {line : Nat} {before : Word} {e : PortWrite} {es : List PortWrite}
    (hb : before.getLsbD line = true) : clockRises line before (e :: es) = clockRises line e.value es := by
  simp [clockRises, hb]

/-- Settles O58: the data write leaves the clock line high, so the clock write finds no rise to make; whether the
data write makes one depends on the line before it. -/
theorem dirtyWordMergesPulses : Obligations.DirtyWordMergesPulses := by
  intro c before w k rest _ hw
  have hpulse : clockRises (clockLine c) w (⟨.C, k, w ||| c.clkmask⟩ :: rest) =
      clockRises (clockLine c) (w ||| c.clkmask) rest := clockRises_cons_of_high hw
  exact ⟨fun hb => (clockRises_cons_of_high hb).trans hpulse,
    fun hb => (clockRises_cons_rise hb hw).trans (congrArg (w :: ·) hpulse)⟩

end Sys2Proof.Machine
end
